-- ==== Sys2Proof/Word.lean ====
section
/-!
DEFINITION. The bit-vector types of the block: the 32-bit word of the bus and of a command (00_scope.md R9,
30_encoding.md R80), the 16-bit bus address (20_memory.md R50) and the 16-bit immediate (30_encoding.md R80).
Operand registers are integers in [0, 2^W) (00_scope.md R11) and have no type here.
-/

namespace Sys2Proof

/-- A 32-bit word: bus data, a command word, ERRINFO (00_scope.md R9). -/
abbrev Word := BitVec 32

/-- A byte address within the block's 64 KiB window (20_memory.md R50, R53). -/
abbrev Addr := BitVec 16

/-- The immediate field of a command (30_encoding.md R80, R81). -/
abbrev Imm := BitVec 16

end Sys2Proof
end

