-- ==== Sys2Proof/Config.lean ====
section
/-!
DEFINITION. What an instance or its platform fixes: the constants of 10_state.md R30 and R31 and the open
parameters of 92_eei_decisions.md that a value outside the block needs.
-/

namespace Sys2Proof.Config

/-- NREG, the number of operand registers (00_scope.md R9). -/
def nreg : Nat := 8

/-- The constant the ID register reads (10_state.md R30). -/
def idWord : Word := 0x4D4D0001#32

/-- NW less one of the instance that `State.reset` describes: NW = 1, the width the spec's own examples and test
vectors take (95_test_vectors.md). DESIGN CHOICE, unsafe for a claim about `State.reset` alone; every other
definition and statement holds for every NW (log 1). -/
def resetNwIndex : Fin 256 := 0

/-- BASE, where the platform puts the block's window (20_memory.md R54, OPEN). The block does not see it; only
`hostAddress` does (log 15). -/
opaque base : Nat

/-- The host address of a byte of the window: BASE + bus_addr (20_memory.md R54). -/
def hostAddress (a : Addr) : Nat := base + a.toNat

end Sys2Proof.Config
end

