-- ==== Sys2Proof/Syntax.lean ====
section
/-!
DEFINITION. The 20 commands of spec/opcode_table.json (30_encoding.md R82, R83), one constructor each, with the
fields the command uses in the order RD, RS1, RS2, IMM (R90). A field that a command does not use has no place.
-/

namespace Sys2Proof

/-- The index of an operand register X0 to X7 (10_state.md R21, 30_encoding.md R81). -/
abbrev Reg := Fin 8

/-- A command of the block. -/
inductive Instr where
  /-- NOP (40_control.md R103). -/
  | nop
  /-- COPY (40_control.md R104). -/
  | copy (rd rs1 : Reg)
  /-- CMPEQ (40_control.md R105). -/
  | cmpeq (rd rs1 rs2 : Reg)
  /-- MUL (40_control.md R106). -/
  | mul (rd rs1 rs2 : Reg)
  /-- BITLEN (40_control.md R107). -/
  | bitlen (rd rs1 : Reg)
  /-- SETMOD (41_montgomery.md R120). -/
  | setmod (rs1 : Reg)
  /-- MONTMUL (41_montgomery.md R121). -/
  | montmul (rd rs1 rs2 : Reg)
  /-- MODMUL (41_montgomery.md R122). -/
  | modmul (rd rs1 rs2 : Reg)
  /-- TOMONT (41_montgomery.md R123). -/
  | tomont (rd rs1 : Reg)
  /-- FROMMONT (41_montgomery.md R124). -/
  | frommont (rd rs1 : Reg)
  /-- REDUCE (41_montgomery.md R125). -/
  | reduce (rd rs1 : Reg)
  /-- MODEXP (42_modexp.md R140). -/
  | modexp (rd rs1 rs2 : Reg)
  /-- XGCD (43_gcd_inverse.md R150); `rd` is the base of a group of three. -/
  | xgcd (rd rs1 rs2 : Reg)
  /-- MODINV (43_gcd_inverse.md R151). -/
  | modinv (rd rs1 rs2 : Reg)
  /-- MRTEST (44_prime.md R160). -/
  | mrtest (rd rs1 rs2 : Reg)
  /-- RSACHK (44_prime.md R161). -/
  | rsachk (rd rs1 rs2 : Reg) (imm : Imm)
  /-- CRTSIGN (45_rsa.md R170); `rs2` is the base of the key group of five. -/
  | crtsign (rd rs1 rs2 : Reg)
  /-- VERIFY (45_rsa.md R171); `rs2` is the base of a group of three. -/
  | verify (rd rs1 rs2 : Reg)
  /-- POWCHK (46_pow.md R180). -/
  | powchk (rd rs1 : Reg) (imm : Imm)
  /-- BLKCHK (46_pow.md R181). -/
  | blkchk (rd rs1 rs2 : Reg) (imm : Imm)
deriving DecidableEq, Repr

end Sys2Proof
end

