-- ==== Sys2Proof/WellFormed.lean ====
section
/-!
DEFINITION. The checks of 30_encoding.md R86: a register group must lie inside X0..X7, with no wrap from X7 to X0.
-/

namespace Sys2Proof

/-- The group X[base] to X[base + size − 1] lies inside X0..X7 (30_encoding.md R81, R86). -/
def groupFits (base : Reg) (size : Nat) : Bool := decide (base.val + size ≤ 8)

/-- The group-range checks of 30_encoding.md R86. Every other command is well formed as it stands. -/
def Instr.wellFormed : Instr → Bool
  | .nop => true
  | .copy _ _ => true
  | .cmpeq _ _ _ => true
  | .mul _ _ _ => true
  | .bitlen _ _ => true
  | .setmod _ => true
  | .montmul _ _ _ => true
  | .modmul _ _ _ => true
  | .tomont _ _ => true
  | .frommont _ _ => true
  | .reduce _ _ => true
  | .modexp _ _ _ => true
  | .xgcd rd _ _ => groupFits rd 3
  | .modinv _ _ _ => true
  | .mrtest _ _ _ => true
  | .rsachk _ _ _ _ => true
  | .crtsign _ _ rs2 => groupFits rs2 5
  | .verify _ _ rs2 => groupFits rs2 3
  | .powchk _ _ _ => true
  | .blkchk _ _ _ _ => true

end Sys2Proof
end

