-- ==== Sys2Proof/Decode.lean ====
section
/-!
DEFINITION. The command word (30_encoding.md R80), its decoder (R84) and its encoder. Decoding is total on every
32-bit word; each refusal has a name, and the block reports every one of them as BADCMD.
-/

namespace Sys2Proof

/-- Why a word is no command (30_encoding.md R84); the block reports each as BADCMD (60_exceptions.md R200). -/
inductive DecodeError where
  /-- OP is one of the twelve reserved values (R85). -/
  | reservedOpcode
  /-- RSV is not 0 (R87). -/
  | reservedBits
  /-- A field that the command does not use is not 0 (R87). -/
  | unusedField
  /-- The base of a register group leaves no room for the group (R86). -/
  | groupRange
deriving DecidableEq, Repr

/-- OP, bits 4:0 (30_encoding.md R80). -/
def opField (c : Word) : BitVec 5 := c.extractLsb' 0 5
/-- RD, bits 7:5. -/
def rdField (c : Word) : BitVec 3 := c.extractLsb' 5 3
/-- RS1, bits 10:8. -/
def rs1Field (c : Word) : BitVec 3 := c.extractLsb' 8 3
/-- RS2, bits 13:11. -/
def rs2Field (c : Word) : BitVec 3 := c.extractLsb' 11 3
/-- RSV, bits 15:14. -/
def rsvField (c : Word) : BitVec 2 := c.extractLsb' 14 2
/-- IMM, bits 31:16. -/
def immField (c : Word) : Imm := c.extractLsb' 16 16

/-- A 3-bit register field selects one of X0..X7 directly (30_encoding.md R81). -/
def regOf (b : BitVec 3) : Reg := ⟨b.toNat, b.isLt⟩

/-- The 3-bit field that selects a register. -/
def regBits (r : Reg) : BitVec 3 := BitVec.ofNat 3 r.val

/-- The mask and group checks of 30_encoding.md R84 on a word whose opcode is `i`'s: RSV, then the fields the
command does not use (`d`, `a`, `b`, `m` say whether RD, RS1, RS2, IMM are used, as in R83), then the group. -/
def checked (c : Word) (d a b m : Bool) (i : Instr) : Except DecodeError Instr :=
  if rsvField c ≠ 0#2 then .error .reservedBits
  else if !d && rdField c != 0#3 then .error .unusedField
  else if !a && rs1Field c != 0#3 then .error .unusedField
  else if !b && rs2Field c != 0#3 then .error .unusedField
  else if !m && immField c != 0#16 then .error .unusedField
  else if i.wellFormed then .ok i
  else .error .groupRange

/-- The command a word stands for, or why it stands for none (30_encoding.md R82 to R87). -/
def decode (c : Word) : Except DecodeError Instr :=
  let rd := regOf (rdField c)
  let rs1 := regOf (rs1Field c)
  let rs2 := regOf (rs2Field c)
  let imm := immField c
  match (opField c).toNat with
  | 0x00 => checked c false false false false .nop
  | 0x01 => checked c true true false false (.copy rd rs1)
  | 0x02 => checked c true true true false (.cmpeq rd rs1 rs2)
  | 0x03 => checked c true true true false (.mul rd rs1 rs2)
  | 0x04 => checked c true true false false (.bitlen rd rs1)
  | 0x08 => checked c false true false false (.setmod rs1)
  | 0x09 => checked c true true true false (.montmul rd rs1 rs2)
  | 0x0A => checked c true true true false (.modmul rd rs1 rs2)
  | 0x0B => checked c true true false false (.tomont rd rs1)
  | 0x0C => checked c true true false false (.frommont rd rs1)
  | 0x0D => checked c true true false false (.reduce rd rs1)
  | 0x10 => checked c true true true false (.modexp rd rs1 rs2)
  | 0x12 => checked c true true true false (.xgcd rd rs1 rs2)
  | 0x13 => checked c true true true false (.modinv rd rs1 rs2)
  | 0x14 => checked c true true true false (.mrtest rd rs1 rs2)
  | 0x15 => checked c true true true true (.rsachk rd rs1 rs2 imm)
  | 0x18 => checked c true true true false (.crtsign rd rs1 rs2)
  | 0x19 => checked c true true true false (.verify rd rs1 rs2)
  | 0x1C => checked c true true false true (.powchk rd rs1 imm)
  | 0x1D => checked c true true true true (.blkchk rd rs1 rs2 imm)
  | _ => .error .reservedOpcode

/-- A command word from its fields, `c = OP | RD<<5 | RS1<<8 | RS2<<11 | IMM<<16` with RSV 0 (30_encoding.md R80). -/
def commandWordOf (op : BitVec 5) (rd rs1 rs2 : BitVec 3) (imm : Imm) : Word :=
  op.setWidth 32 ||| rd.setWidth 32 <<< 5 ||| rs1.setWidth 32 <<< 8 ||| rs2.setWidth 32 <<< 11 |||
    imm.setWidth 32 <<< 16

/-- The word of a command, unused fields 0 (30_encoding.md R80, R83, R87). -/
def encode : Instr → Word
  | .nop => commandWordOf 0x00#5 0#3 0#3 0#3 0#16
  | .copy rd rs1 => commandWordOf 0x01#5 (regBits rd) (regBits rs1) 0#3 0#16
  | .cmpeq rd rs1 rs2 => commandWordOf 0x02#5 (regBits rd) (regBits rs1) (regBits rs2) 0#16
  | .mul rd rs1 rs2 => commandWordOf 0x03#5 (regBits rd) (regBits rs1) (regBits rs2) 0#16
  | .bitlen rd rs1 => commandWordOf 0x04#5 (regBits rd) (regBits rs1) 0#3 0#16
  | .setmod rs1 => commandWordOf 0x08#5 0#3 (regBits rs1) 0#3 0#16
  | .montmul rd rs1 rs2 => commandWordOf 0x09#5 (regBits rd) (regBits rs1) (regBits rs2) 0#16
  | .modmul rd rs1 rs2 => commandWordOf 0x0A#5 (regBits rd) (regBits rs1) (regBits rs2) 0#16
  | .tomont rd rs1 => commandWordOf 0x0B#5 (regBits rd) (regBits rs1) 0#3 0#16
  | .frommont rd rs1 => commandWordOf 0x0C#5 (regBits rd) (regBits rs1) 0#3 0#16
  | .reduce rd rs1 => commandWordOf 0x0D#5 (regBits rd) (regBits rs1) 0#3 0#16
  | .modexp rd rs1 rs2 => commandWordOf 0x10#5 (regBits rd) (regBits rs1) (regBits rs2) 0#16
  | .xgcd rd rs1 rs2 => commandWordOf 0x12#5 (regBits rd) (regBits rs1) (regBits rs2) 0#16
  | .modinv rd rs1 rs2 => commandWordOf 0x13#5 (regBits rd) (regBits rs1) (regBits rs2) 0#16
  | .mrtest rd rs1 rs2 => commandWordOf 0x14#5 (regBits rd) (regBits rs1) (regBits rs2) 0#16
  | .rsachk rd rs1 rs2 imm => commandWordOf 0x15#5 (regBits rd) (regBits rs1) (regBits rs2) imm
  | .crtsign rd rs1 rs2 => commandWordOf 0x18#5 (regBits rd) (regBits rs1) (regBits rs2) 0#16
  | .verify rd rs1 rs2 => commandWordOf 0x19#5 (regBits rd) (regBits rs1) (regBits rs2) 0#16
  | .powchk rd rs1 imm => commandWordOf 0x1C#5 (regBits rd) (regBits rs1) 0#3 imm
  | .blkchk rd rs1 rs2 imm => commandWordOf 0x1D#5 (regBits rd) (regBits rs1) (regBits rs2) imm

/-- The command word that the low `nbits` bits of `w` are; every bit above them is 0. -/
def tableWord (nbits w : Nat) : Word := BitVec.ofNat 32 (w % 2 ^ nbits)

/-- What the decoder reads from an opcode-table word. A command is one 32-bit bus datum (30_encoding.md R80), so
there is no byte order to undo. -/
def decodeTableWord (nbits w : Nat) : Option Instr :=
  match decode (tableWord nbits w) with
  | .ok i => some i
  | .error _ => none

end Sys2Proof
end

