-- ==== Sys2Proof/Machine/State.lean ====
section
/-!
DEFINITION. The state of the block (10_state.md), the inputs the outside presents to it (20_memory.md R50), the
ways a step can stop, and the state after reset (10_state.md R38).
-/

namespace Sys2Proof.Machine

/-- The error codes of STATUS.ECODE (60_exceptions.md R200). The codes 8 to 15 are never produced. -/
inductive ErrCode where
  /-- 0: no error recorded. -/
  | none
  /-- 1: an illegal command word. -/
  | badcmd
  /-- 2: MODV is 0. -/
  | nomod
  /-- 3: an operand out of its range. -/
  | domain
  /-- 4: an even modulus. -/
  | modulus
  /-- 5: no modular inverse. -/
  | arith
  /-- 6: a result or an internal modulus that does not fit W bits. -/
  | overflow
  /-- 7: a bus write rejected while a command is in flight. -/
  | busy
deriving DecidableEq, Repr

/-- One bus transaction (20_memory.md R50, R51; 00_scope.md R14): a read or a write of the 32-bit word at a byte
address. -/
inductive Transaction where
  /-- `MemRead(a, 4)`. -/
  | read (a : Addr)
  /-- `MemWrite(a, 4, v)`. -/
  | write (a : Addr) (v : Word)
deriving DecidableEq, Repr

/-- What the outside presents in one clock cycle (20_memory.md R50): the reset input, the bus transaction if one is
presented, and whether the open latency of the command in flight ends in this cycle (00_scope.md R10,
20_memory.md R60; logs 3 and 4). -/
structure Cycle where
  /-- The input `rst` (70_reset_and_hazards.md R230). -/
  rst : Bool
  /-- The transaction presented, if `bus_sel` is 1. -/
  bus : Option Transaction
  /-- The completion of the command in flight falls in this cycle. -/
  finish : Bool
deriving DecidableEq, Repr

/-- The state of the block. Every field but the last two is a state element or a parameter of the spec. -/
structure State where
  /-- NW less one, so `1 ≤ NW ≤ 256` (00_scope.md R7): a parameter of the instance that nothing writes (10_state.md
  R36; log 1). -/
  nwIndex : Fin 256
  /-- X0 to X7 (10_state.md R21), each an integer in [0, 2^W) (00_scope.md R11; log 11). -/
  regs : Vector Nat 8
  /-- MOD (10_state.md R23). -/
  modulus : Nat
  /-- NPRIME (10_state.md R24). -/
  nprime : Nat
  /-- R2 (10_state.md R25). -/
  r2 : Nat
  /-- MODV, mirrored in STATUS.MODV (10_state.md R26). -/
  modv : Bool
  /-- STATUS.DONE (10_state.md R27). -/
  done : Bool
  /-- STATUS.ERR (10_state.md R27). -/
  err : Bool
  /-- STATUS.ECODE (10_state.md R27). -/
  ecode : ErrCode
  /-- ERRINFO (10_state.md R32). -/
  errinfo : Word
  /-- CTRL.IE (10_state.md R28). -/
  ie : Bool
  /-- CTRL.EIE (10_state.md R28). -/
  eie : Bool
  /-- The command in flight, which exists exactly while STATUS.BUSY is 1 (10_state.md R33; log 2). -/
  inflight : Option Word
  /-- The model's own: what `bus_rdata` carried in the read transactions so far, latest first (log 6). -/
  readLog : List Word
  /-- The model's own: the clock cycles the outside presents from now on (log 3). -/
  inputs : List Cycle
deriving DecidableEq, Repr

/-- The ways the machine stops. There is none: a command error is a status report and never stops the block
(00_scope.md R15, 60_exceptions.md R202), and every bus access completes (20_memory.md R50, R52). -/
inductive Fault where
deriving DecidableEq, Repr

/-- The refusals. -/
inductive Refusal where
  /-- Raised by an arm of `exec` whose command has no meaning yet; no arm raises it. Safe: nothing is claimed of
  such a command. -/
  | notModelled (mnemonic : String)
deriving DecidableEq, Repr

/-- The state after reset of an instance of `NW = k + 1` words (10_state.md R38, 70_reset_and_hazards.md R230),
with nothing read yet and nothing presented yet. -/
def State.resetOf (k : Fin 256) : State where
  nwIndex := k
  regs := Vector.replicate 8 0
  modulus := 0
  nprime := 0
  r2 := 0
  modv := false
  done := false
  err := false
  ecode := .none
  errinfo := 0
  ie := false
  eie := false
  inflight := none
  readLog := []
  inputs := []

/-- The state after reset (10_state.md R38) of the instance `Config.resetNwIndex` names (log 1). -/
def State.reset : State := State.resetOf Config.resetNwIndex

end Sys2Proof.Machine
end

