-- ==== Sys2Proof/Machine/Arith.lean ====
section
/-!
DEFINITION. The integer operators of 00_scope.md R12, the Montgomery definitions of R17, the loop of
43_gcd_inverse.md R150 and the round of 44_prime.md R160, on exact integers. Powers and inverses are computed by
structural recursion, so that a step can be evaluated; Sys2Proof/Laws/Arith.lean proves them equal to the formulas
of R12 (log 13).
-/

namespace Sys2Proof.Machine

/-- `bitlen(v)` (00_scope.md R12): the number of bits without leading zeros, 0 for 0. -/
def bitlen (v : Nat) : Nat := if v = 0 then 0 else Nat.log2 v + 1

/-- `b^e mod m` for `e < 2^fuel` and `b < m`, by squaring (00_scope.md R12). -/
def powFuel (b m : Nat) : Nat → Nat → Nat
  | 0, _ => 1 % m
  | fuel + 1, e =>
    if e = 0 then 1 % m
    else
      let h := powFuel b m fuel (e / 2)
      if e % 2 = 1 then h * h % m * b % m else h * h % m

/-- `pow(b, e, m) = b^e mod m`, with `b^0 = 1` (00_scope.md R12). -/
def powMod (b e m : Nat) : Nat := powFuel (b % m) m (bitlen e) e

/-- The variables of the loop of 43_gcd_inverse.md R150: the remainders are non-negative, the coefficients exact
signed integers. -/
structure Bezout where
  r0 : Nat
  r1 : Nat
  s0 : Int
  s1 : Int
  t0 : Int
  t1 : Int
deriving DecidableEq, Repr

/-- One pass of the loop of 43_gcd_inverse.md R150. -/
def bezoutPass (z : Bezout) : Bezout :=
  let q := z.r0 / z.r1
  { r0 := z.r1, r1 := z.r0 - q * z.r1,
    s0 := z.s1, s1 := z.s0 - q * z.s1,
    t0 := z.t1, t1 := z.t0 - q * z.t1 }

/-- `while r1 != 0`, at most `fuel` passes (43_gcd_inverse.md R150). -/
def bezoutLoop : Nat → Bezout → Bezout
  | 0, z => z
  | fuel + 1, z => if z.r1 = 0 then z else bezoutLoop fuel (bezoutPass z)

/-- The loop of 43_gcd_inverse.md R150 on `(a, b)`. Each pass makes `r1` smaller, so `b + 1` passes are enough. -/
def xgcd (a b : Nat) : Bezout :=
  bezoutLoop (b + 1) { r0 := a, r1 := b, s0 := 1, s1 := 0, t0 := 0, t1 := 1 }

/-- `inv(a, m)` for `gcd(a, m) = 1` (00_scope.md R12): the `x` in [0, m) with `a·x mod m = 1 mod m`. -/
def invMod (a m : Nat) : Nat := ((xgcd (a % m) m).s0 % (m : Int)).toNat

/-- `twos_W(v) = v mod 2^W`, the two's-complement image (00_scope.md R11). -/
def twos (width : Nat) (v : Int) : Nat := (v % ((2 ^ width : Nat) : Int)).toNat

/-- `Rinv = inv(R mod N, N)` for the radix `radix` (00_scope.md R17). -/
def rInv (radix n : Nat) : Nat := invMod (radix % n) n

/-- `NPRIME = (−inv(N, R)) mod R` (00_scope.md R17). -/
def nPrimeOf (radix n : Nat) : Nat := (radix - invMod n radix) % radix

/-- `R2 = R² mod N` (00_scope.md R17). -/
def r2Of (radix n : Nat) : Nat := radix * radix % n

/-- `MontProd(a, b) = a·b·Rinv mod N` (00_scope.md R17). -/
def montProd (radix n a b : Nat) : Nat := a * b * rInv radix n % n

/-- The `s` of `v = 2^s · d` with `d` odd, for `0 < v < 2^fuel` (44_prime.md R160). -/
def twoPart : Nat → Nat → Nat
  | 0, _ => 0
  | fuel + 1, v => if v % 2 = 0 then twoPart fuel (v / 2) + 1 else 0

/-- `repeat k times: y <- (y · y) mod n; if y = n − 1: 1` and 0 after the last time (44_prime.md R160). -/
def squaringHits (n : Nat) : Nat → Nat → Bool
  | 0, _ => false
  | k + 1, y =>
    let z := y * y % n
    if z = n - 1 then true else squaringHits n k z

/-- The round of 44_prime.md R160 for an odd `n ≥ 3` and a base `a` in [1, n − 1]: n is a strong probable prime to
base a. -/
def strongProbablePrime (n a : Nat) : Bool :=
  let s := twoPart (bitlen (n - 1)) (n - 1)
  let d := (n - 1) / 2 ^ s
  let y := powMod a d n
  if y = 1 ∨ y = n - 1 then true else squaringHits n (s - 1) y

/-- The CRT formula of 45_rsa.md R170, after its checks. -/
def crtSignature (m p q dP dQ qInv : Nat) : Nat :=
  let m1 := powMod m dP p
  let m2 := powMod m dQ q
  let h := qInv * (((m1 : Int) - (m2 : Int)) % (p : Int)).toNat % p
  (m2 + h * q) % (p * q)

end Sys2Proof.Machine
end

