-- ==== Sys2Proof/Machine/Ops.lean ====
section
/-!
DEFINITION. The named operations over the registers: reading and writing an operand register, loading and dropping
the modulus, issuing and retiring a command, recording an error (the block's one way of taking an exception,
60_exceptions.md R202) and acknowledging it (its return, R205), and the reset event (70_reset_and_hazards.md R230).
-/

namespace Sys2Proof.Machine

/-- NW, the number of 32-bit words of an operand register (00_scope.md R7). -/
def State.nw (s : State) : Nat := s.nwIndex.val + 1

/-- W = 32·NW (00_scope.md R7). -/
def State.width (s : State) : Nat := 32 * s.nw

/-- R = 2^W (00_scope.md R8). -/
def State.radix (s : State) : Nat := 2 ^ s.width

/-- `x[i]` (00_scope.md R13). -/
def State.x (s : State) (i : Reg) : Nat := s.regs[i.val]

/-- `x[i] <- v` (00_scope.md R13). -/
def State.setX (s : State) (i : Reg) (v : Nat) : State := { s with regs := s.regs.set i.val v }

/-- STATUS.BUSY: 1 exactly while a command is in flight (10_state.md R33; log 2). -/
def State.busy (s : State) : Bool := s.inflight.isSome

/-- A successful SETMOD (41_montgomery.md R120): MOD, NPRIME, R2 and MODV. -/
def State.loadModulus (s : State) (v : Nat) : State :=
  { s with modulus := v, nprime := nPrimeOf s.radix v, r2 := r2Of s.radix v, modv := true }

/-- A failed SETMOD clears MODV; MOD, NPRIME and R2 keep their values (41_montgomery.md R120). -/
def State.dropModulus (s : State) : State := { s with modv := false }

/-- `record_error(code, info)` (60_exceptions.md R202): the first error is kept. -/
def State.recordError (s : State) (code : ErrCode) (info : Word) : State :=
  if s.err then s else { s with err := true, ecode := code, errinfo := info }

/-- The acknowledgement of an error: ERR, ECODE and ERRINFO become 0 (60_exceptions.md R205, 10_state.md R27). -/
def State.clearError (s : State) : State := { s with err := false, ecode := .none, errinfo := 0 }

/-- DONE becomes 0 (10_state.md R27). -/
def State.clearDone (s : State) : State := { s with done := false }

/-- The issue of `c` (40_control.md R100): BUSY is 1 from here and DONE is 0. Nothing is validated. -/
def State.issue (s : State) (c : Word) : State := { s with inflight := some c, done := false }

/-- The end of a completion (40_control.md R101): BUSY 0, DONE 1, no command in flight. -/
def State.retire (s : State) : State := { s with inflight := none, done := true }

/-- The command word that a completion records (40_control.md R101): the word in flight. With no command in flight
no completion is enabled; `i`'s own word stands in for it (log 10). -/
def State.commandWord (s : State) (i : Instr) : Word := s.inflight.getD (encode i)

/-- The completion of a command that succeeds: its writes stand in `s` (40_control.md R101). -/
def State.complete (s : State) : Host.Outcome State Fault Refusal := .next s.retire

/-- `raise CmdError(code)` in the command `i` (00_scope.md R15): the error is recorded with the command word and the
command completes (40_control.md R101, 60_exceptions.md R202). -/
def State.raise (s : State) (code : ErrCode) (i : Instr) : Host.Outcome State Fault Refusal :=
  .next (s.recordError code (s.commandWord i)).retire

/-- The reset event (70_reset_and_hazards.md R230): every register at its reset value, a command in flight
discarded. The parameter NW, the log of reads and the cycles to come are not registers of the block. -/
def State.resetEvent (s : State) : State :=
  { State.resetOf s.nwIndex with readLog := s.readLog, inputs := s.inputs }

/-- Word `j` of a W-bit value, its bits `[32j+31 : 32j]` (20_memory.md R55, 00_scope.md R11). -/
def wordOf (v j : Nat) : Word := BitVec.ofNat 32 (v / 2 ^ (32 * j))

/-- `v` with its bits `[32j+31 : 32j]` replaced by `w` (20_memory.md R56). -/
def replaceWord (v j : Nat) (w : Word) : Nat :=
  v / 2 ^ (32 * (j + 1)) * 2 ^ (32 * (j + 1)) + w.toNat * 2 ^ (32 * j) + v % 2 ^ (32 * j)

end Sys2Proof.Machine
end

