-- ==== Sys2Proof/Machine/Flags.lean ====
section
/-!
DEFINITION. The status and control images (10_state.md R27, R28, R31), the writes to them, the verdict of a test
command and the interrupt line (60_exceptions.md R206).
-/

namespace Sys2Proof.Machine

/-- One bit as a 32-bit value. -/
def bitWord (b : Bool) : Word := if b then 1#32 else 0#32

/-- The number of an error code (60_exceptions.md R200). -/
def errNumber : ErrCode → Word
  | .none => 0#32
  | .badcmd => 1#32
  | .nomod => 2#32
  | .domain => 3#32
  | .modulus => 4#32
  | .arith => 5#32
  | .overflow => 6#32
  | .busy => 7#32

/-- The STATUS image: BUSY 0, DONE 1, MODV 2, ERR 3, ECODE 7:4, the rest 0 (10_state.md R27). -/
def State.statusWord (s : State) : Word :=
  bitWord s.busy ||| bitWord s.done <<< 1 ||| bitWord s.modv <<< 2 ||| bitWord s.err <<< 3 |||
    errNumber s.ecode <<< 4

/-- The CTRL image: IE 0, EIE 1, the rest 0 (10_state.md R28). -/
def State.ctrlWord (s : State) : Word := bitWord s.ie ||| bitWord s.eie <<< 1

/-- The PARAM image: NW in bits 15:0, NREG in bits 23:16 (10_state.md R31). -/
def State.paramWord (s : State) : Word := BitVec.ofNat 32 s.nw ||| BitVec.ofNat 32 Config.nreg <<< 16

/-- A write of `v` to STATUS (10_state.md R27): bit 1 clears DONE, bit 3 clears ERR, ECODE and ERRINFO, the rest is
ignored. -/
def State.writeStatus (s : State) (v : Word) : State :=
  let t := if v.getLsbD 1 then s.clearDone else s
  if v.getLsbD 3 then t.clearError else t

/-- A write of `v` to CTRL (20_memory.md R56, 10_state.md R28). -/
def State.writeCtrl (s : State) (v : Word) : State := { s with ie := v.getLsbD 0, eie := v.getLsbD 1 }

/-- The verdict of a test command, a register value and no flag (10_state.md R27). -/
def verdict (b : Bool) : Nat := if b then 1 else 0

/-- The output `irq` (60_exceptions.md R206, 10_state.md R34). -/
def State.irq (s : State) : Bool := (s.ie && s.done) || (s.eie && s.err)

/-- The output `bus_ready`, constantly 1 (20_memory.md R50). -/
def State.busReady (_ : State) : Bool := true

end Sys2Proof.Machine
end

