-- ==== Sys2Proof/Machine/Bus.lean ====
section
/-!
DEFINITION. The bus: the address map (20_memory.md R53), reads (R58), writes while idle (R56) and while a command is
in flight (R57), and one transaction (R51).
-/

namespace Sys2Proof.Machine

/-- What a byte address of the window names (20_memory.md R53). The word index `j` is below 256; a word with
`j ≥ NW` exists in no register. -/
inductive Region where
  | id
  | param
  | ctrl
  | status
  | cmd
  | errinfo
  | x (i : Reg) (j : Nat)
  | modulus (j : Nat)
  | nprime (j : Nat)
  | r2 (j : Nat)
  | reserved
deriving DecidableEq, Repr

/-- The address map by word number, the byte address over 4 (20_memory.md R53). The X windows are 0x100 words each,
from word 0x400. -/
def regionOfWord (w : Nat) : Region :=
  if w = 0x0000 / 4 then .id
  else if w = 0x0004 / 4 then .param
  else if w = 0x0008 / 4 then .ctrl
  else if w = 0x000C / 4 then .status
  else if w = 0x0010 / 4 then .cmd
  else if w = 0x0014 / 4 then .errinfo
  else if w < 0x1000 / 4 then .reserved
  else if w < 0x3000 / 4 then .x ⟨(w - 0x1000 / 4) / 256 % 8, Nat.mod_lt _ (by decide)⟩ (w % 256)
  else if w < 0x3400 / 4 then .modulus (w % 256)
  else if w < 0x3800 / 4 then .nprime (w % 256)
  else if w < 0x3C00 / 4 then .r2 (w % 256)
  else .reserved

/-- What a byte address names. Address bits 1:0 are ignored: the word accessed is `a[15:2]` (20_memory.md R52). -/
def region (a : Addr) : Region := regionOfWord (a.toNat / 4)

/-- Word `j` of a W-bit register as the bus reads it: 0 for `j ≥ NW` (20_memory.md R58). -/
def State.windowWord (s : State) (v j : Nat) : Word := if j < s.nw then wordOf v j else 0#32

/-- What `MemRead(a, 4)` returns (20_memory.md R58). -/
def State.busRead (s : State) (a : Addr) : Word :=
  match region a with
  | .id => Config.idWord
  | .param => s.paramWord
  | .ctrl => s.ctrlWord
  | .status => s.statusWord
  | .cmd => 0#32
  | .errinfo => s.errinfo
  | .x i j => s.windowWord (s.x i) j
  | .modulus j => s.windowWord s.modulus j
  | .nprime j => s.windowWord s.nprime j
  | .r2 j => s.windowWord s.r2 j
  | .reserved => 0#32

/-- The rejection of a bus write (20_memory.md R57): the error BUSY with the byte address as presented (log 9). -/
def State.rejectWrite (s : State) (a : Addr) : State := s.recordError .busy (a.setWidth 32)

/-- A write while STATUS.BUSY is 0 (20_memory.md R56). -/
def State.writeIdle (s : State) (a : Addr) (v : Word) : State :=
  match region a with
  | .ctrl => s.writeCtrl v
  | .status => s.writeStatus v
  | .cmd => s.issue v
  | .x i j => if j < s.nw then s.setX i (replaceWord (s.x i) j v) else s
  | .id => s
  | .param => s
  | .errinfo => s
  | .modulus _ => s
  | .nprime _ => s
  | .r2 _ => s
  | .reserved => s

/-- A write while STATUS.BUSY is 1 (20_memory.md R57). -/
def State.writeBusy (s : State) (a : Addr) (v : Word) : State :=
  match region a with
  | .ctrl => s.writeCtrl v
  | .status => s.writeStatus v
  | .cmd => s.rejectWrite a
  | .x _ _ => s.rejectWrite a
  | .id => s
  | .param => s
  | .errinfo => s
  | .modulus _ => s
  | .nprime _ => s
  | .r2 _ => s
  | .reserved => s

/-- `MemWrite(a, 4, v)` (20_memory.md R56, R57). -/
def State.busWrite (s : State) (a : Addr) (v : Word) : State :=
  if s.busy then s.writeBusy a v else s.writeIdle a v

/-- The read transaction: the block does not change (20_memory.md R58); the model's log takes the data (log 6). -/
def State.logRead (s : State) (a : Addr) : State := { s with readLog := s.busRead a :: s.readLog }

/-- One bus transaction, one indivisible step (20_memory.md R51). -/
def State.transact (s : State) : Transaction → State
  | .read a => s.logRead a
  | .write a v => s.busWrite a v

end Sys2Proof.Machine
end

