-- ==== Sys2Proof/Machine/Operands.lean ====
section
/-!
DEFINITION. The three operand forms of 30_encoding.md R81 (a single register is `State.x`; a register group and the
immediate are here), and the checks on operands that several commands share (41_montgomery.md R126).
-/

namespace Sys2Proof.Machine

/-- The register `k` after the base of a group, `X[base + k]` (30_encoding.md R81). Every command that takes a group
checks first that the group fits, so the index does not wrap (R86; log 10). -/
def groupReg (base : Reg) (k : Nat) : Reg := ⟨(base.val + k) % 8, Nat.mod_lt _ (by decide)⟩

/-- The immediate, zero-extended (30_encoding.md R81). -/
def immValue (imm : Imm) : Nat := imm.toNat

/-- The check of a command that needs a loaded modulus: NOMOD if MODV is 0 (41_montgomery.md R126 step 1,
42_modexp.md R140), else what `go` says. -/
def State.withModulus (s : State) (i : Instr)
    (go : Host.Outcome State Fault Refusal) : Host.Outcome State Fault Refusal :=
  if s.modv then go else s.raise .nomod i

/-- The range check of 41_montgomery.md R126 step 2: DOMAIN if a source operand is at or above MOD, else what `go`
says. -/
def State.withInDomain (s : State) (operands : List Nat) (i : Instr)
    (go : Host.Outcome State Fault Refusal) : Host.Outcome State Fault Refusal :=
  if operands.all (fun a => decide (a < s.modulus)) then go else s.raise .domain i

/-- The group-range check of 30_encoding.md R86, before every other check of the command (60_exceptions.md R203). -/
def State.withGroup (s : State) (base : Reg) (size : Nat) (i : Instr)
    (go : Host.Outcome State Fault Refusal) : Host.Outcome State Fault Refusal :=
  if groupFits base size then go else s.raise .badcmd i

end Sys2Proof.Machine
end

