-- ==== Sys2Proof/Machine/Gcd.lean ====
section
/-!
DEFINITION. The extended-GCD engine and the modular inverse solver, XGCD and MODINV (43_gcd_inverse.md). Neither uses
the loaded modulus.
-/

namespace Sys2Proof.Machine

/-- XGCD (43_gcd_inverse.md R150): g, x and y to X[rd], X[rd+1] and X[rd+2], x and y in two's complement; the sources
are read before the group is written (40_control.md R102). -/
def execXgcd (rd rs1 rs2 : Reg) (s : State) : Host.Outcome State Fault Refusal :=
  s.withGroup rd 3 (.xgcd rd rs1 rs2) <|
    let z := xgcd (s.x rs1) (s.x rs2)
    (((s.setX (groupReg rd 0) z.r0).setX (groupReg rd 1) (twos s.width z.s0)).setX
      (groupReg rd 2) (twos s.width z.t0)).complete

/-- MODINV (43_gcd_inverse.md R151): ARITH for p = 0 and for gcd(a, p) ≠ 1. -/
def execModinv (rd rs1 rs2 : Reg) (s : State) : Host.Outcome State Fault Refusal :=
  if s.x rs2 = 0 ∨ Nat.gcd (s.x rs1) (s.x rs2) ≠ 1 then s.raise .arith (.modinv rd rs1 rs2)
  else (s.setX rd (invMod (s.x rs1 % s.x rs2) (s.x rs2))).complete

end Sys2Proof.Machine
end

