-- ==== Sys2Proof/Machine/Helpers.lean ====
section
/-!
DEFINITION. The helper family NOP, COPY, CMPEQ, MUL, BITLEN (40_control.md section 2). Every meaning reads its
operands from `s` and then writes (R102).
-/

namespace Sys2Proof.Machine

/-- NOP (40_control.md R103). -/
def execNop (s : State) : Host.Outcome State Fault Refusal := s.complete

/-- COPY (40_control.md R104). -/
def execCopy (rd rs1 : Reg) (s : State) : Host.Outcome State Fault Refusal := (s.setX rd (s.x rs1)).complete

/-- CMPEQ (40_control.md R105): the comparison is over all W bits. -/
def execCmpeq (rd rs1 rs2 : Reg) (s : State) : Host.Outcome State Fault Refusal :=
  (s.setX rd (verdict (s.x rs1 == s.x rs2))).complete

/-- MUL (40_control.md R106): the exact product, or OVERFLOW when it needs more than W bits. -/
def execMul (rd rs1 rs2 : Reg) (s : State) : Host.Outcome State Fault Refusal :=
  let p := s.x rs1 * s.x rs2
  if s.radix ≤ p then s.raise .overflow (.mul rd rs1 rs2) else (s.setX rd p).complete

/-- BITLEN (40_control.md R107). -/
def execBitlen (rd rs1 : Reg) (s : State) : Host.Outcome State Fault Refusal :=
  (s.setX rd (bitlen (s.x rs1))).complete

end Sys2Proof.Machine
end

