-- ==== Sys2Proof/Machine/Modexp.lean ====
section
/-!
DEFINITION. The modular exponentiation pipeline, MODEXP (42_modexp.md).
-/

namespace Sys2Proof.Machine

/-- MODEXP (42_modexp.md R140): the base is reduced, the exponent is any W-bit value, and exponent 0 gives
1 mod MOD. -/
def execModexp (rd rs1 rs2 : Reg) (s : State) : Host.Outcome State Fault Refusal :=
  s.withModulus (.modexp rd rs1 rs2) <|
    (s.setX rd (powMod (s.x rs1 % s.modulus) (s.x rs2) s.modulus)).complete

end Sys2Proof.Machine
end

