-- ==== Sys2Proof/Machine/Montgomery.lean ====
section
/-!
DEFINITION. The Montgomery core SETMOD, MONTMUL, MODMUL, TOMONT, FROMMONT, REDUCE (41_montgomery.md section 2). Each
result is the exact formula of its rule; the reduction sequence is not observable (00_scope.md R18).
-/

namespace Sys2Proof.Machine

/-- SETMOD (41_montgomery.md R120): an even value, 0 among them, clears MODV and raises MODULUS. -/
def execSetmod (rs1 : Reg) (s : State) : Host.Outcome State Fault Refusal :=
  if s.x rs1 % 2 = 0 then s.dropModulus.raise .modulus (.setmod rs1)
  else (s.loadModulus (s.x rs1)).complete

/-- MONTMUL (41_montgomery.md R121, R126). -/
def execMontmul (rd rs1 rs2 : Reg) (s : State) : Host.Outcome State Fault Refusal :=
  s.withModulus (.montmul rd rs1 rs2) <|
    s.withInDomain [s.x rs1, s.x rs2] (.montmul rd rs1 rs2) <|
      (s.setX rd (montProd s.radix s.modulus (s.x rs1) (s.x rs2))).complete

/-- MODMUL (41_montgomery.md R122, R126). -/
def execModmul (rd rs1 rs2 : Reg) (s : State) : Host.Outcome State Fault Refusal :=
  s.withModulus (.modmul rd rs1 rs2) <|
    s.withInDomain [s.x rs1, s.x rs2] (.modmul rd rs1 rs2) <|
      (s.setX rd (s.x rs1 * s.x rs2 % s.modulus)).complete

/-- TOMONT (41_montgomery.md R123, R126). -/
def execTomont (rd rs1 : Reg) (s : State) : Host.Outcome State Fault Refusal :=
  s.withModulus (.tomont rd rs1) <|
    s.withInDomain [s.x rs1] (.tomont rd rs1) <|
      (s.setX rd (s.x rs1 * s.radix % s.modulus)).complete

/-- FROMMONT (41_montgomery.md R124, R126). -/
def execFrommont (rd rs1 : Reg) (s : State) : Host.Outcome State Fault Refusal :=
  s.withModulus (.frommont rd rs1) <|
    s.withInDomain [s.x rs1] (.frommont rd rs1) <|
      (s.setX rd (s.x rs1 * rInv s.radix s.modulus % s.modulus)).complete

/-- REDUCE (41_montgomery.md R125): no range check. -/
def execReduce (rd rs1 : Reg) (s : State) : Host.Outcome State Fault Refusal :=
  s.withModulus (.reduce rd rs1) <| (s.setX rd (s.x rs1 % s.modulus)).complete

end Sys2Proof.Machine
end

