-- ==== Sys2Proof/Machine/Pow.lean ====
section
/-!
DEFINITION. The block-hash validator, POWCHK and BLKCHK (46_pow.md).
-/

namespace Sys2Proof.Machine

/-- POWCHK (46_pow.md R180): h < 2^T, with T the immediate. -/
def execPowchk (rd rs1 : Reg) (imm : Imm) (s : State) : Host.Outcome State Fault Refusal :=
  (s.setX rd (verdict (decide (s.x rs1 < 2 ^ immValue imm)))).complete

/-- BLKCHK (46_pow.md R181): r = h and h < 2^T. -/
def execBlkchk (rd rs1 rs2 : Reg) (imm : Imm) (s : State) : Host.Outcome State Fault Refusal :=
  (s.setX rd (verdict (s.x rs1 == s.x rs2 && decide (s.x rs2 < 2 ^ immValue imm)))).complete

end Sys2Proof.Machine
end

