-- ==== Sys2Proof/Machine/Prime.lean ====
section
/-!
DEFINITION. The prime validator, MRTEST and RSACHK (44_prime.md).
-/

namespace Sys2Proof.Machine

/-- MRTEST (44_prime.md R160): one Miller–Rabin round. n = 2 gives 1 and every other n that is even or below 2 gives
0 with the base not examined; DOMAIN for a base outside [1, n − 1]. -/
def execMrtest (rd rs1 rs2 : Reg) (s : State) : Host.Outcome State Fault Refusal :=
  let n := s.x rs1
  let a := s.x rs2
  if n = 2 then (s.setX rd 1).complete
  else if n < 2 ∨ n % 2 = 0 then (s.setX rd 0).complete
  else if a = 0 ∨ n ≤ a then s.raise .domain (.mrtest rd rs1 rs2)
  else (s.setX rd (verdict (strongProbablePrime n a))).complete

/-- RSACHK (44_prime.md R161): bit 0 says that c has exactly k bits, bit 1 that c ≥ 1 and gcd(c − 1, e) = 1. -/
def execRsachk (rd rs1 rs2 : Reg) (imm : Imm) (s : State) : Host.Outcome State Fault Refusal :=
  let c := s.x rs1
  let e := s.x rs2
  let bit0 := verdict (bitlen c == immValue imm)
  let bit1 := verdict (decide (1 ≤ c) && Nat.gcd (c - 1) e == 1)
  (s.setX rd (bit0 + 2 * bit1)).complete

end Sys2Proof.Machine
end

