-- ==== Sys2Proof/Machine/Rsa.lean ====
section
/-!
DEFINITION. The RSA CRT signing unit and the signature verifier, CRTSIGN and VERIFY (45_rsa.md). Neither reads or
changes MOD, NPRIME, R2 or MODV.
-/

namespace Sys2Proof.Machine

/-- CRTSIGN (45_rsa.md R170): the key group X[rs2..rs2+4] is p, q, dP, dQ, qInv; MODULUS, then OVERFLOW, then DOMAIN,
then the CRT formula. -/
def execCrtsign (rd rs1 rs2 : Reg) (s : State) : Host.Outcome State Fault Refusal :=
  s.withGroup rs2 5 (.crtsign rd rs1 rs2) <|
    let m := s.x rs1
    let p := s.x (groupReg rs2 0)
    let q := s.x (groupReg rs2 1)
    let dP := s.x (groupReg rs2 2)
    let dQ := s.x (groupReg rs2 3)
    let qInv := s.x (groupReg rs2 4)
    if p % 2 = 0 ∨ q % 2 = 0 then s.raise .modulus (.crtsign rd rs1 rs2)
    else if s.radix ≤ p * q then s.raise .overflow (.crtsign rd rs1 rs2)
    else if p * q ≤ m then s.raise .domain (.crtsign rd rs1 rs2)
    else (s.setX rd (crtSignature m p q dP dQ qInv)).complete

/-- VERIFY (45_rsa.md R171): the group X[rs2..rs2+2] is the signature, e, n; MODULUS, then DOMAIN for m ≥ n, then the
verdict. The signature is not range-checked (90_conflicts.md C7). -/
def execVerify (rd rs1 rs2 : Reg) (s : State) : Host.Outcome State Fault Refusal :=
  s.withGroup rs2 3 (.verify rd rs1 rs2) <|
    let m := s.x rs1
    let sig := s.x (groupReg rs2 0)
    let e := s.x (groupReg rs2 1)
    let n := s.x (groupReg rs2 2)
    if n % 2 = 0 then s.raise .modulus (.verify rd rs1 rs2)
    else if n ≤ m then s.raise .domain (.verify rd rs1 rs2)
    else (s.setX rd (verdict (powMod sig e n == m))).complete

end Sys2Proof.Machine
end

