-- ==== Sys2Proof/Machine/Dispatch.lean ====
section
/-!
DEFINITION. One arm per command: `execute(c)` of 40_control.md R101 and the end of the completion.
-/

namespace Sys2Proof.Machine

def exec (i : Instr) (s : State) : Host.Outcome State Fault Refusal :=
  match i with
  | .nop => Sys2Proof.Machine.execNop s
  | .copy rd rs1 => Sys2Proof.Machine.execCopy rd rs1 s
  | .cmpeq rd rs1 rs2 => Sys2Proof.Machine.execCmpeq rd rs1 rs2 s
  | .mul rd rs1 rs2 => Sys2Proof.Machine.execMul rd rs1 rs2 s
  | .bitlen rd rs1 => Sys2Proof.Machine.execBitlen rd rs1 s
  | .setmod rs1 => Sys2Proof.Machine.execSetmod rs1 s
  | .montmul rd rs1 rs2 => Sys2Proof.Machine.execMontmul rd rs1 rs2 s
  | .modmul rd rs1 rs2 => Sys2Proof.Machine.execModmul rd rs1 rs2 s
  | .tomont rd rs1 => Sys2Proof.Machine.execTomont rd rs1 s
  | .frommont rd rs1 => Sys2Proof.Machine.execFrommont rd rs1 s
  | .reduce rd rs1 => Sys2Proof.Machine.execReduce rd rs1 s
  | .modexp rd rs1 rs2 => Sys2Proof.Machine.execModexp rd rs1 rs2 s
  | .xgcd rd rs1 rs2 => Sys2Proof.Machine.execXgcd rd rs1 rs2 s
  | .modinv rd rs1 rs2 => Sys2Proof.Machine.execModinv rd rs1 rs2 s
  | .mrtest rd rs1 rs2 => Sys2Proof.Machine.execMrtest rd rs1 rs2 s
  | .rsachk rd rs1 rs2 imm => Sys2Proof.Machine.execRsachk rd rs1 rs2 imm s
  | .crtsign rd rs1 rs2 => Sys2Proof.Machine.execCrtsign rd rs1 rs2 s
  | .verify rd rs1 rs2 => Sys2Proof.Machine.execVerify rd rs1 rs2 s
  | .powchk rd rs1 imm => Sys2Proof.Machine.execPowchk rd rs1 imm s
  | .blkchk rd rs1 rs2 imm => Sys2Proof.Machine.execBlkchk rd rs1 rs2 imm s

end Sys2Proof.Machine
end

