-- ==== Sys2Proof/Machine/Engine.lean ====
section
/-!
DEFINITION. The engine's completion step (40_control.md R101), one clock cycle (60_exceptions.md R204,
70_reset_and_hazards.md R230), and the placing of a command in flight.
-/

namespace Sys2Proof.Machine

/-- The completion of the word `c` in flight (40_control.md R101): decode it, execute it, or record BADCMD for a word
that is no command (30_encoding.md R84, R85). -/
def State.completeWord (s : State) (c : Word) : Host.Outcome State Fault Refusal :=
  match decode c with
  | .ok i => exec i s
  | .error _ => .next (s.recordError .badcmd c).retire

/-- The engine's one step, enabled exactly while a command is in flight (40_control.md R101, 10_state.md R33). -/
def State.engine (s : State) : Host.Outcome State Fault Refusal :=
  match s.inflight with
  | some c => s.completeWord c
  | none => .next s

/-- The transaction of a cycle, if one is presented. -/
def State.transactIn (s : State) : Option Transaction → State
  | some t => s.transact t
  | none => s

/-- What a transaction presented while `rst` is 1 does after the reset: a write has no effect, a read returns the
reset value (70_reset_and_hazards.md R230; log 7). -/
def State.transactInReset (s : State) : Option Transaction → State
  | some (.read a) => s.logRead a
  | some (.write _ _) => s
  | none => s

/-- One clock cycle (60_exceptions.md R204): reset wins over the other events of the cycle; else the transaction is
ordered first and the completion of the command that was in flight when the cycle began follows, if it falls in
this cycle (log 8). -/
def State.cycle (s : State) (c : Cycle) : Host.Outcome State Fault Refusal :=
  if c.rst then .next (s.resetEvent.transactInReset c.bus)
  else if s.busy && c.finish then (s.transactIn c.bus).engine
  else .next (s.transactIn c.bus)

/-- The cycles to come that make the very next step the completion of the command in flight: none is needed when
nothing is presented, and one with no transaction otherwise (log 5). -/
def completionFirst : List Cycle → List Cycle
  | [] => []
  | c :: cs => { rst := false, bus := none, finish := true } :: c :: cs

/-- `c` is in flight, as after its issue (40_control.md R100), and the next step is its completion (log 5). -/
def State.placeCommand (s : State) (c : Word) : State :=
  { s.issue c with inputs := completionFirst s.inputs }

end Sys2Proof.Machine
end

