-- ==== Sys2Proof/Machine/Step.lean ====
section
/-!
DEFINITION. One step: the next clock cycle of `inputs`. When nothing more is presented, a command in flight completes
(every issued command does, 40_control.md R101) and an idle block keeps its state (60_exceptions.md R215; logs 3, 4).
-/

namespace Sys2Proof.Machine

/-- One step of the machine. -/
def step (s : State) : Host.Outcome State Fault Refusal :=
  match s.inputs with
  | [] => s.engine
  | c :: cs => State.cycle { s with inputs := cs } c

/-- The state in which the very next step runs the command of the opcode-table word `w`: the word is in flight, as
after a CMD write (log 5). -/
def State.withFetchWord (s : State) (nbits w : Nat) : State := s.placeCommand (tableWord nbits w)

end Sys2Proof.Machine
end

