-- ==== Sys2Proof/Machine/Assembler.lean ====
section
/-!
DEFINITION. The assembler of 30_encoding.md R90 and R91 and 00_scope.md R16, for one line given as its characters:
mnemonic, operands in the order RD, RS1, RS2, IMM, comment after `;`. It is host software; what it leaves open is in
log 16.
-/

namespace Sys2Proof.Machine

/-- An operand as written (30_encoding.md R90). -/
inductive AsmOperand where
  | reg (r : Reg)
  | imm (v : Imm)
deriving DecidableEq, Repr

/-- A decimal digit's value. -/
def decDigit (c : Char) : Option Nat :=
  if '0' ≤ c ∧ c ≤ '9' then some (c.toNat - 48) else none

/-- A hexadecimal digit's value, in either case. -/
def hexDigit (c : Char) : Option Nat :=
  if '0' ≤ c ∧ c ≤ '9' then some (c.toNat - 48)
  else if 'a' ≤ c ∧ c ≤ 'f' then some (c.toNat - 87)
  else if 'A' ≤ c ∧ c ≤ 'F' then some (c.toNat - 55)
  else none

/-- The value of a digit string in base `b`, after the digits whose value is `acc`. -/
def digitsValue (b : Nat) (digit : Char → Option Nat) : Nat → List Char → Option Nat
  | acc, [] => some acc
  | acc, c :: cs =>
    match digit c with
    | some d => digitsValue b digit (acc * b + d) cs
    | none => none

/-- An immediate: a decimal or `0x` hexadecimal integer in 0..65535 (30_encoding.md R90). -/
def parseImm (cs : List Char) : Option Imm :=
  let v := match cs with
    | '0' :: 'x' :: d :: ds => digitsValue 16 hexDigit 0 (d :: ds)
    | d :: ds => digitsValue 10 decDigit 0 (d :: ds)
    | [] => none
  match v with
  | some n => if n ≤ 65535 then some (BitVec.ofNat 16 n) else none
  | none => none

/-- A register `x0` to `x7` or an immediate (30_encoding.md R90). -/
def parseOperand (cs : List Char) : Option AsmOperand :=
  match cs with
  | ['x', d] =>
    match decDigit d with
    | some n => if h : n < 8 then some (.reg ⟨n, h⟩) else none
    | none => none
  | _ => (parseImm cs).map .imm

/-- A blank: a space or a tab. -/
def isBlank (c : Char) : Bool := c == ' ' || c == '\t'

/-- The characters before a comment (30_encoding.md R90). -/
def withoutComment (cs : List Char) : List Char := cs.takeWhile (· != ';')

/-- The characters without the blanks at either end. -/
def trimBlanks (cs : List Char) : List Char := ((cs.dropWhile isBlank).reverse.dropWhile isBlank).reverse

/-- The pieces between commas. -/
def splitCommas : List Char → List (List Char)
  | [] => [[]]
  | c :: cs =>
    if c == ',' then [] :: splitCommas cs
    else
      match splitCommas cs with
      | p :: ps => (c :: p) :: ps
      | [] => [[c]]

/-- Commands and pseudo-instructions (30_encoding.md R91) written with two registers. -/
def twoRegForms : List (List Char × (Reg → Reg → Instr)) :=
  [(['c','o','p','y'], .copy), (['b','i','t','l','e','n'], .bitlen), (['t','o','m','o','n','t'], .tomont),
   (['f','r','o','m','m','o','n','t'], .frommont), (['r','e','d','u','c','e'], .reduce),
   (['m','o','v'], .copy), (['m','o','n','t','s','q','r'], fun rd rs => .montmul rd rs rs),
   (['m','o','d','s','q','r'], fun rd rs => .modmul rd rs rs),
   (['p','o','w','c','h','k','2','4','8'], fun rd rs => .powchk rd rs 248#16)]

/-- Commands and pseudo-instructions written with three registers. -/
def threeRegForms : List (List Char × (Reg → Reg → Reg → Instr)) :=
  [(['c','m','p','e','q'], .cmpeq), (['m','u','l'], .mul), (['m','o','n','t','m','u','l'], .montmul),
   (['m','o','d','m','u','l'], .modmul), (['m','o','d','e','x','p'], .modexp), (['x','g','c','d'], .xgcd),
   (['m','o','d','i','n','v'], .modinv), (['m','r','t','e','s','t'], .mrtest),
   (['c','r','t','s','i','g','n'], .crtsign), (['v','e','r','i','f','y'], .verify),
   (['s','i','g','n','s','l','o','w'], .modexp),
   (['b','l','k','c','h','k','2','4','8'], fun rd rs1 rs2 => .blkchk rd rs1 rs2 248#16)]

/-- Commands written with three registers and an immediate. -/
def threeRegImmForms : List (List Char × (Reg → Reg → Reg → Imm → Instr)) :=
  [(['r','s','a','c','h','k'], .rsachk), (['b','l','k','c','h','k'], .blkchk)]

/-- The command a lower-case mnemonic and its operands write, with a missing or extra operand rejected. -/
def commandOf (m : List Char) : List AsmOperand → Option Instr
  | [] => if m = ['n','o','p'] then some .nop else none
  | [.reg a] => if m = ['s','e','t','m','o','d'] then some (.setmod a) else none
  | [.reg a, .reg b] => (twoRegForms.lookup m).map fun f => f a b
  | [.reg a, .reg b, .reg c] => (threeRegForms.lookup m).map fun f => f a b c
  | [.reg a, .reg b, .imm t] => if m = ['p','o','w','c','h','k'] then some (.powchk a b t) else none
  | [.reg a, .reg b, .reg c, .imm t] => (threeRegImmForms.lookup m).map fun f => f a b c t
  | _ => none

/-- The operands after a mnemonic; a line with none has no comma. -/
def parseOperands (cs : List Char) : Option (List AsmOperand) :=
  if trimBlanks cs = [] then some []
  else (splitCommas cs).mapM fun p => parseOperand (trimBlanks p)

/-- One line of assembly (30_encoding.md R90): the command, or nothing for a line that is rejected or holds none. A
group base outside R86 is rejected. -/
def assembleLine (line : List Char) : Option Instr :=
  let cs := trimBlanks (withoutComment line)
  let m := (cs.takeWhile fun c => !isBlank c).map Char.toLower
  match parseOperands (cs.dropWhile fun c => !isBlank c) with
  | none => none
  | some ops =>
    match commandOf m ops with
    | none => none
    | some i => if i.wellFormed then some i else none

end Sys2Proof.Machine
end

