-- ==== Sys2Proof/Machine/HostProgram.lean ====
section
/-!
DEFINITION. The host operations of 30_encoding.md R92, turned into the clock cycles the host presents. A host
program's loops and branches are outside the block (10_state.md R22); `wait` takes the number of polls that find the
block busy, since when the completion falls is open (20_memory.md R60; logs 4 and 18).
-/

namespace Sys2Proof.Machine

/-- A host operation (30_encoding.md R92). -/
inductive HostOp where
  /-- `wr A, v`. -/
  | wr (a : Addr) (v : Word)
  /-- `rd A`. -/
  | rd (a : Addr)
  /-- `ld xi, v`: NW word writes. -/
  | ld (i : Reg) (v : Nat)
  /-- `cmd <assembly>`. -/
  | cmd (i : Instr)
  /-- `cmd` of a word as it stands, legal or not. -/
  | cmdWord (c : Word)
  /-- `wait`, with `polls` reads of STATUS that find BUSY 1, then the completion, then the read that finds BUSY 0. -/
  | wait (polls : Nat)
  /-- `clr`: clear DONE and ERR. -/
  | clr
deriving DecidableEq, Repr

/-- A cycle that presents one transaction and no completion. -/
def busCycle (t : Transaction) : Cycle := { rst := false, bus := some t, finish := false }

/-- A cycle in which only the completion of the command in flight falls. -/
def engineCycle : Cycle := { rst := false, bus := none, finish := true }

/-- A cycle with `rst` at 1. -/
def resetCycle : Cycle := { rst := true, bus := none, finish := false }

/-- The byte address of word `j` of Xi (20_memory.md R53). -/
def xAddr (i : Reg) (j : Nat) : Addr := BitVec.ofNat 16 (0x1000 + 0x400 * i.val + 4 * j)

/-- The cycles of a host operation, for an instance of `nw` words (30_encoding.md R92). -/
def hostOpCycles (nw : Nat) : HostOp → List Cycle
  | .wr a v => [busCycle (.write a v)]
  | .rd a => [busCycle (.read a)]
  | .ld i v => (List.range nw).map fun j => busCycle (.write (xAddr i j) (wordOf v j))
  | .cmd i => [busCycle (.write 0x0010#16 (encode i))]
  | .cmdWord c => [busCycle (.write 0x0010#16 c)]
  | .wait polls =>
    List.replicate polls (busCycle (.read 0x000C#16)) ++ [engineCycle, busCycle (.read 0x000C#16)]
  | .clr => [busCycle (.write 0x000C#16 0x0000000A#32)]

/-- The cycles of a host program. -/
def programCycles (nw : Nat) (p : List HostOp) : List Cycle := p.flatMap (hostOpCycles nw)

/-- The state with a host program presented after the cycles already to come (log 5). -/
def State.withProgram (s : State) (p : List HostOp) : State :=
  { s with inputs := s.inputs ++ programCycles s.nw p }

end Sys2Proof.Machine
end

