-- ==== Sys2Proof/Machine/Reference.lean ====
section
/-!
DEFINITION. The reference algorithms of 41_montgomery.md R131, which the spec gives as information only: no command of
the model is computed by them (00_scope.md R18; log 19). They stand here so that their agreement with the result formulas can
be stated.
-/

namespace Sys2Proof.Machine

/-- One pass of the word-serial product for the word `bj` of the second factor (41_montgomery.md R131); `n0` is
`n0' = NPRIME[31:0]`. -/
def ciosPass (n n0 a bj t : Nat) : Nat :=
  let u := t + a * bj
  let m := u % 2 ^ 32 * n0 % 2 ^ 32
  (u + m * n) / 2 ^ 32

/-- The passes for `j` in 0 .. k − 1 (41_montgomery.md R131). -/
def ciosLoop (n n0 a b : Nat) : Nat → Nat
  | 0 => 0
  | k + 1 => ciosPass n n0 a (wordOf b k).toNat (ciosLoop n n0 a b k)

/-- The word-serial Montgomery product of `a` and `b` modulo `n` over `nw` words (41_montgomery.md R131). -/
def ciosProduct (nw n a b : Nat) : Nat :=
  let t := ciosLoop n (nPrimeOf (2 ^ (32 * nw)) n % 2 ^ 32) a b nw
  if n ≤ t then t - n else t

/-- `y <- y·(2 − MOD·y) mod radix`, `k` times from 1 (41_montgomery.md R131). -/
def newtonInverse (radix n : Nat) : Nat → Nat
  | 0 => 1
  | k + 1 =>
    let y : Int := newtonInverse radix n k
    (y * (2 - n * y) % (radix : Int)).toNat

/-- `R mod MOD`, doubled `k` times modulo MOD (41_montgomery.md R131). -/
def doubledRadix (radix n : Nat) : Nat → Nat
  | 0 => radix % n
  | k + 1 => 2 * doubledRadix radix n k % n

end Sys2Proof.Machine
end

