-- ==== Sys2Proof/Safety.lean ====
section
/-!
DEFINITION. The terms claims use: what a completion that succeeds or fails leaves (40_control.md R101,
60_exceptions.md R202), the invariant of the block's registers, and the host discipline of
70_reset_and_hazards.md R235.
-/

namespace Sys2Proof.Machine

/-- The command has completed (40_control.md R101): BUSY 0, no command in flight, DONE 1. -/
structure State.Completed (t : State) : Prop where
  idle : t.busy = false
  noneInFlight : t.inflight = none
  doneSet : t.done = true

/-- Every operand register outside `ds` is as before. -/
def State.RegsExcept (ds : List Reg) (s t : State) : Prop := ∀ i, i ∉ ds → t.x i = s.x i

/-- MOD, NPRIME and R2 are as before. -/
structure State.SameConstants (s t : State) : Prop where
  modulus : t.modulus = s.modulus
  nprime : t.nprime = s.nprime
  r2 : t.r2 = s.r2

/-- The error record is as before. -/
structure State.SameErrors (s t : State) : Prop where
  err : t.err = s.err
  ecode : t.ecode = s.ecode
  errinfo : t.errinfo = s.errinfo

/-- What no command writes is as before: CTRL (10_state.md R37), the parameter NW, what was read, what is to come. -/
structure State.SameRest (s t : State) : Prop where
  ie : t.ie = s.ie
  eie : t.eie = s.eie
  nwIndex : t.nwIndex = s.nwIndex
  readLog : t.readLog = s.readLog
  inputs : t.inputs = s.inputs

/-- `record_error(code, info)` and nothing more of the error record (60_exceptions.md R202). -/
structure State.Recorded (code : ErrCode) (info : Word) (s t : State) : Prop where
  first : s.err = false → t.err = true ∧ t.ecode = code ∧ t.errinfo = info
  kept : s.err = true → s.SameErrors t

/-- `t` follows `s` by a command that succeeds and writes no register outside `ds` (40_control.md R101). -/
structure State.Succeeds (ds : List Reg) (s t : State) : Prop where
  completed : t.Completed
  regs : State.RegsExcept ds s t
  constants : s.SameConstants t
  modv : t.modv = s.modv
  errors : s.SameErrors t
  rest : s.SameRest t

/-- `t` follows `s` by the command word `c` failing with `code` (60_exceptions.md R202): no operand register and no
constant of the modulus is written, the error is recorded with the command word, and MODV becomes `mv` (as before,
but for a failed SETMOD). -/
structure State.Fails (code : ErrCode) (c : Word) (mv : Bool) (s t : State) : Prop where
  completed : t.Completed
  regs : State.RegsExcept [] s t
  constants : s.SameConstants t
  modv : t.modv = mv
  recorded : State.Recorded code c s t
  rest : s.SameRest t

/-- The invariant of the block's registers. -/
structure State.Inv (s : State) : Prop where
  /-- Every operand register is a W-bit value (10_state.md R21, 40_control.md R108). -/
  regsFit : ∀ i, s.x i < s.radix
  /-- MOD is a W-bit value (10_state.md R23). -/
  modulusFits : s.modulus < s.radix
  /-- NPRIME is a W-bit value (10_state.md R24). -/
  nprimeFits : s.nprime < s.radix
  /-- R2 is a W-bit value (10_state.md R25). -/
  r2Fits : s.r2 < s.radix
  /-- No modulus was loaded since reset, or MOD is odd and NPRIME and R2 are its constants (00_scope.md R17,
  41_montgomery.md R120). -/
  constants : (s.modulus = 0 ∧ s.nprime = 0 ∧ s.r2 = 0) ∨
    (s.modulus % 2 = 1 ∧ (s.modulus * s.nprime + 1) % s.radix = 0 ∧ s.r2 = s.radix * s.radix % s.modulus)
  /-- MODV means that MOD holds an odd modulus (10_state.md R26). -/
  modvLoaded : s.modv = true → s.modulus % 2 = 1
  /-- ECODE and ERRINFO are 0 while ERR is 0 (10_state.md R27, R32). -/
  errorClear : s.err = false → s.ecode = .none ∧ s.errinfo = 0
  /-- ERR set means that an error is named (60_exceptions.md R200). -/
  errorSet : s.err = true → s.ecode ≠ .none
  /-- DONE is 0 while a command is in flight (40_control.md R100, R101). -/
  busyNotDone : s.busy = true → s.done = false

/-- The host keeps 70_reset_and_hazards.md R235 in this cycle: no write to CMD or to an X window while a command is
in flight. -/
def State.hostKeepsR235 (s : State) (c : Cycle) : Bool :=
  match c.bus with
  | some (.write a _) =>
    match region a with
    | .cmd => !s.busy
    | .x _ _ => !s.busy
    | _ => true
  | _ => true

/-- The cycle presents no reset and no completion falls in it. -/
def Cycle.quiet (c : Cycle) : Bool := !c.rst && !c.finish

end Sys2Proof.Machine
end

