-- ==== Sys2Proof/Certificates/Slice0/Obligations.lean ====
section
/-!
DEFINITION. The statements for the provers, from the numbered rules of spec/, and the words they share (in
Sys2Proof.Claims), written from the spec's text and not from the model's definitions.
-/

namespace Sys2Proof.Claims

open Sys2Proof.Machine

/-- `v[hi:lo] = floor(v / 2^lo) mod 2^(hi−lo+1)` (00_scope.md R11) of a command word. -/
def field (c : Word) (hi lo : Nat) : Nat := c.toNat / 2 ^ lo % 2 ^ (hi - lo + 1)

/-- OP (30_encoding.md R80). -/
def op (c : Word) : Nat := field c 4 0

/-- The twelve reserved opcodes (30_encoding.md R85). -/
def reservedOps : List Nat := [0x05, 0x06, 0x07, 0x0E, 0x0F, 0x11, 0x16, 0x17, 0x1A, 0x1B, 0x1E, 0x1F]

/-- The masks of the table of 30_encoding.md R83; the match of every row is its opcode. -/
def maskOf : Nat → Word
  | 0x00 => 0xFFFFFFFF#32
  | 0x01 => 0xFFFFF81F#32
  | 0x02 => 0xFFFFC01F#32
  | 0x03 => 0xFFFFC01F#32
  | 0x04 => 0xFFFFF81F#32
  | 0x08 => 0xFFFFF8FF#32
  | 0x09 => 0xFFFFC01F#32
  | 0x0A => 0xFFFFC01F#32
  | 0x0B => 0xFFFFF81F#32
  | 0x0C => 0xFFFFF81F#32
  | 0x0D => 0xFFFFF81F#32
  | 0x10 => 0xFFFFC01F#32
  | 0x12 => 0xFFFFC01F#32
  | 0x13 => 0xFFFFC01F#32
  | 0x14 => 0xFFFFC01F#32
  | 0x15 => 0x0000C01F#32
  | 0x18 => 0xFFFFC01F#32
  | 0x19 => 0xFFFFC01F#32
  | 0x1C => 0x0000F81F#32
  | 0x1D => 0x0000C01F#32
  | _ => 0#32

/-- The command of an opcode with its fields (30_encoding.md R82, R83). -/
def commandAt (rd rs1 rs2 : Reg) (imm : Imm) : Nat → Option Instr
  | 0x00 => some .nop
  | 0x01 => some (.copy rd rs1)
  | 0x02 => some (.cmpeq rd rs1 rs2)
  | 0x03 => some (.mul rd rs1 rs2)
  | 0x04 => some (.bitlen rd rs1)
  | 0x08 => some (.setmod rs1)
  | 0x09 => some (.montmul rd rs1 rs2)
  | 0x0A => some (.modmul rd rs1 rs2)
  | 0x0B => some (.tomont rd rs1)
  | 0x0C => some (.frommont rd rs1)
  | 0x0D => some (.reduce rd rs1)
  | 0x10 => some (.modexp rd rs1 rs2)
  | 0x12 => some (.xgcd rd rs1 rs2)
  | 0x13 => some (.modinv rd rs1 rs2)
  | 0x14 => some (.mrtest rd rs1 rs2)
  | 0x15 => some (.rsachk rd rs1 rs2 imm)
  | 0x18 => some (.crtsign rd rs1 rs2)
  | 0x19 => some (.verify rd rs1 rs2)
  | 0x1C => some (.powchk rd rs1 imm)
  | 0x1D => some (.blkchk rd rs1 rs2 imm)
  | _ => none

/-- The checks of `decode` in 30_encoding.md R84, in its order: reserved opcode, mask, group bases. -/
def Accepted (c : Word) : Prop :=
  op c ∉ reservedOps ∧ c &&& maskOf (op c) = BitVec.ofNat 32 (op c) ∧
    ¬ (op c = 0x12 ∧ 5 < field c 7 5) ∧ ¬ (op c = 0x18 ∧ 3 < field c 13 11) ∧ ¬ (op c = 0x19 ∧ 5 < field c 13 11)

/-- What `decode` returns for an accepted word (30_encoding.md R84). -/
def commandOfWord (c : Word) : Option Instr :=
  commandAt (Fin.ofNat 8 (field c 7 5)) (Fin.ofNat 8 (field c 10 8)) (Fin.ofNat 8 (field c 13 11))
    (BitVec.ofNat 16 (field c 31 16)) (op c)

/-- The completion of the word in flight fails with BADCMD and writes nothing. -/
def CompletesWithBadcmd (c : Word) : Prop :=
  ∀ s : State, s.inflight = some c → ∃ t, s.engine = .next t ∧ State.Fails .badcmd c s.modv s t

/-- The words of one opcode: an accepted word decodes to its command, every other one is BADCMD. -/
def FormatOf (n : Nat) : Prop :=
  ∀ c : Word, op c = n →
    (Accepted c → ∃ i, commandOfWord c = some i ∧ decode c = .ok i) ∧ (¬ Accepted c → CompletesWithBadcmd c)

/-- `i` at `s` answers a next state with what `P` says. -/
def Runs (i : Instr) (s : State) (P : State → Prop) : Prop := ∃ t, exec i s = .next t ∧ P t

/-- `i` at `s` succeeds, writes `v` to X[rd] and nothing else (40_control.md R101). -/
def Writes (i : Instr) (s : State) (rd : Reg) (v : Nat) : Prop :=
  Runs i s fun t => State.Succeeds [rd] s t ∧ t.x rd = v

/-- `i` at `s`, with its word in flight, fails with `code` and changes nothing else (60_exceptions.md R202). -/
def Errs (i : Instr) (s : State) (code : ErrCode) : Prop :=
  ∀ c, s.inflight = some c → Runs i s fun t => State.Fails code c s.modv s t

/-- A verdict: 1 if `P`, else 0. -/
def IsVerdict (P : Prop) (v : Nat) : Prop := (P → v = 1) ∧ (¬ P → v = 0)

/-- The register `k` after `base` (30_encoding.md R81). -/
def member (base : Reg) (k : Nat) : Reg := Fin.ofNat 8 (base.val + k)

/-- The loop of 43_gcd_inverse.md R150, as a relation: `EuclidEnds r0 r1 s0 s1 t0 t1 g x y` says that the loop
started with these variables ends with r0 = g, s0 = x, t0 = y. -/
inductive EuclidEnds : Nat → Nat → Int → Int → Int → Int → Nat → Int → Int → Prop where
  | stop (r0 : Nat) (s0 s1 t0 t1 : Int) : EuclidEnds r0 0 s0 s1 t0 t1 r0 s0 t0
  | pass (r0 r1 q : Nat) (s0 s1 t0 t1 : Int) (g : Nat) (x y : Int) (hr : r1 ≠ 0) (hq : q = r0 / r1)
      (rest : EuclidEnds r1 (r0 - q * r1) s1 (s0 - q * s1) t1 (t0 - q * t1) g x y) :
      EuclidEnds r0 r1 s0 s1 t0 t1 g x y

/-- The destination registers of a command (10_state.md R37). -/
def dests : Instr → List Reg
  | .nop => []
  | .copy rd _ => [rd]
  | .cmpeq rd _ _ => [rd]
  | .mul rd _ _ => [rd]
  | .bitlen rd _ => [rd]
  | .setmod _ => []
  | .montmul rd _ _ => [rd]
  | .modmul rd _ _ => [rd]
  | .tomont rd _ => [rd]
  | .frommont rd _ => [rd]
  | .reduce rd _ => [rd]
  | .modexp rd _ _ => [rd]
  | .xgcd rd _ _ => [rd, member rd 1, member rd 2]
  | .modinv rd _ _ => [rd]
  | .mrtest rd _ _ => [rd]
  | .rsachk rd _ _ _ => [rd]
  | .crtsign rd _ _ => [rd]
  | .verify rd _ _ => [rd]
  | .powchk rd _ _ => [rd]
  | .blkchk rd _ _ _ => [rd]

/-- `i` is a SETMOD. -/
def IsSetmod (i : Instr) : Prop := ∃ r, i = .setmod r

/-- The word number of a byte address, `a[15:2]` (20_memory.md R52). -/
def wordNumber (a : Addr) : Nat := a.toNat / 4

/-- The word number of word `j` of Xi (20_memory.md R53). -/
def xWord (i : Reg) (j : Nat) : Nat := (0x1000 + 0x400 * i.val + 4 * j) / 4

/-- Bits `[32j+31 : 32j]` of a value, or 0 for a word the instance has not (20_memory.md R55, R58). -/
def bitsOf (s : State) (v j : Nat) : Nat := if j < s.nw then v / 2 ^ (32 * j) % 2 ^ 32 else 0

/-- A bit as a number. -/
def bit (b : Bool) : Nat := if b then 1 else 0

/-- The numbers of 60_exceptions.md R200. -/
def codeNumber : ErrCode → Nat
  | .none => 0
  | .badcmd => 1
  | .nomod => 2
  | .domain => 3
  | .modulus => 4
  | .arith => 5
  | .overflow => 6
  | .busy => 7

/-- `t` is `s` with the register file replaced: every other field is as before. -/
def OnlyRegs (s t : State) : Prop := t = { s with regs := t.regs }

/-- One pass of square-and-multiply in the Montgomery domain, over exponent bits from the most significant
(42_modexp.md R141). -/
def ladder (radix n b : Nat) : List Bool → Nat → Nat
  | [], acc => acc
  | e :: es, acc =>
    let sq := montProd radix n acc acc
    ladder radix n b es (if e then montProd radix n sq b else sq)

end Sys2Proof.Claims

open Sys2Proof Sys2Proof.Machine Sys2Proof.Claims

/-! ### Encoding -/

/-- 30_encoding.md R89: the worked encodings, decoded and encoded. -/
def Obligations.WorkedEncodingsDecodeAndEncode : Prop :=
  ∀ p ∈ ([(0x00000008#32, Instr.setmod 0), (0x0000016B#32, .tomont 3 1), (0x000023A9#32, .montmul 5 3 4),
      (0x00001249#32, .montmul 2 2 2), (0x000005CC#32, .frommont 6 5), (0x000011EA#32, .modmul 7 1 2),
      (0x00003E02#32, .cmpeq 0 6 7), (0x000008B8#32, .crtsign 5 0 1), (0x00002899#32, .verify 4 0 5),
      (0x00000850#32, .modexp 2 0 1), (0x00000812#32, .xgcd 0 0 1), (0x0018005C#32, .powchk 2 0 24#16),
      (0x0018087D#32, .blkchk 3 0 1 24#16), (0x000635D5#32, .rsachk 6 5 6 6#16),
      (0x000035F4#32, .mrtest 7 5 6)] : List (Word × Instr)),
    decode p.1 = .ok p.2 ∧ encode p.2 = p.1

/-- Decoding the word of a well-formed command gives the command back, for every command and operand. -/
def Obligations.DecodeOfEncodeIsTheCommand : Prop := ∀ i : Instr, i.wellFormed = true → decode (encode i) = .ok i

/-- A word that decodes is the word of the command it decodes to, and the command is well formed: no accepted word
has a bit that the command does not say. -/
def Obligations.EncodeOfDecodeIsTheWord : Prop :=
  ∀ (c : Word) (i : Instr), decode c = .ok i → encode i = c ∧ i.wellFormed = true

/-- 30_encoding.md R84: a word that passes the opcode, mask and group checks decodes to its opcode's command with its
fields; every other word completes with BADCMD, whatever the state (so before every other check). -/
def Obligations.DecoderAcceptsExactlyTheTable : Prop :=
  ∀ c : Word, (Accepted c → ∃ i, commandOfWord c = some i ∧ decode c = .ok i) ∧
    (¬ Accepted c → CompletesWithBadcmd c)

/-- 30_encoding.md R85: a word with a reserved opcode completes with BADCMD and no register written, and so does
every word the decoder does not accept. -/
def Obligations.ReservedOpcodesCompleteWithBadcmd : Prop :=
  (∀ c : Word, op c ∈ reservedOps → CompletesWithBadcmd c) ∧
    (∀ (c : Word) (e : DecodeError), decode c = .error e → CompletesWithBadcmd c)

/-- 30_encoding.md R86: a group base that leaves no room for the group makes the word illegal; one that leaves room
does not, and the group does not wrap. -/
def Obligations.GroupBasesStayInsideTheRegisters : Prop :=
  ∀ rd rs1 rs2 : Reg,
    (rd.val ≤ 5 → decode (encode (.xgcd rd rs1 rs2)) = .ok (.xgcd rd rs1 rs2) ∧ (member rd 2).val = rd.val + 2) ∧
    (5 < rd.val → CompletesWithBadcmd (encode (.xgcd rd rs1 rs2))) ∧
    (rs2.val ≤ 3 → decode (encode (.crtsign rd rs1 rs2)) = .ok (.crtsign rd rs1 rs2) ∧
      (member rs2 4).val = rs2.val + 4) ∧
    (3 < rs2.val → CompletesWithBadcmd (encode (.crtsign rd rs1 rs2))) ∧
    (rs2.val ≤ 5 → decode (encode (.verify rd rs1 rs2)) = .ok (.verify rd rs1 rs2) ∧
      (member rs2 2).val = rs2.val + 2) ∧
    (5 < rs2.val → CompletesWithBadcmd (encode (.verify rd rs1 rs2)))

/-- The model's own choice (log 10): the meaning of a command whose group does not fit, which no decoded word reaches,
fails with BADCMD as the word itself does. -/
def Obligations.MeaningsRefuseIllFormedGroups : Prop :=
  ∀ (rd rs1 rs2 : Reg) (s : State),
    (5 < rd.val → Errs (.xgcd rd rs1 rs2) s .badcmd) ∧
    (3 < rs2.val → Errs (.crtsign rd rs1 rs2) s .badcmd) ∧
    (5 < rs2.val → Errs (.verify rd rs1 rs2) s .badcmd)

/-! ### Steps and completions -/

/-- When the word in flight decodes to `i`, the step in which its completion falls is `exec i`: at this state when
nothing is presented; after this cycle's transaction when a cycle without reset in which the completion falls is
presented; and for a word placed by `withFetchWord`. -/
def Obligations.StepRunsTheDecodedCommand : Prop :=
  ∀ (s : State) (c : Word) (i : Instr), decode c = .ok i →
    (s.inflight = some c → s.inputs = [] → step s = exec i s) ∧
    (s.inflight = some c → ∀ (cy : Cycle) (cs : List Cycle), s.inputs = cy :: cs → cy.rst = false →
      cy.finish = true → step s = exec i (State.transactIn { s with inputs := cs } cy.bus)) ∧
    (s.inputs = [] → step (s.withFetchWord 32 c.toNat) = exec i (s.withFetchWord 32 c.toNat))

/-- Every command completes in every state: it answers a next state with BUSY 0, DONE 1 and nothing in flight. -/
def Obligations.EveryCommandCompletes : Prop := ∀ (i : Instr) (s : State), Runs i s fun t => t.Completed

/-- The block never stops: every step of every state answers a next state. -/
def Obligations.EveryStepAnswersNext : Prop := ∀ s : State, ∃ t, step s = .next t

/-! ### The helper commands -/

/-- 40_control.md R103. -/
def Obligations.NopOnlyCompletes : Prop :=
  FormatOf 0x00 ∧ (∀ c : Word, op c = 0x00 → (Accepted c ↔ c = 0x00000000#32)) ∧
    (∀ s, Runs .nop s fun t => State.Succeeds [] s t) ∧
    ∀ k, ∃ t, ((State.resetOf k).issue 0x00000000#32).engine = .next t ∧ t.statusWord = 0x00000002#32

/-- 40_control.md R104. -/
def Obligations.CopyCopiesTheRegister : Prop :=
  FormatOf 0x01 ∧ ∀ (rd rs1 : Reg) (s : State), Writes (.copy rd rs1) s rd (s.x rs1)

/-- 40_control.md R105. -/
def Obligations.CmpeqComparesAllBits : Prop :=
  FormatOf 0x02 ∧ ∀ (rd rs1 rs2 : Reg) (s : State),
    ∃ v, Writes (.cmpeq rd rs1 rs2) s rd v ∧ IsVerdict (s.x rs1 = s.x rs2) v

/-- 40_control.md R106. -/
def Obligations.MulIsExactOrOverflows : Prop :=
  FormatOf 0x03 ∧ ∀ (rd rs1 rs2 : Reg) (s : State),
    (s.x rs1 * s.x rs2 < 2 ^ (32 * s.nw) → Writes (.mul rd rs1 rs2) s rd (s.x rs1 * s.x rs2)) ∧
    (2 ^ (32 * s.nw) ≤ s.x rs1 * s.x rs2 → Errs (.mul rd rs1 rs2) s .overflow)

/-- 40_control.md R107: the result `v` is 0 for 0, and otherwise the one number with 2^(v−1) ≤ X[rs1] < 2^v; it lies
in 0..W for a W-bit operand. -/
def Obligations.BitlenCountsTheBits : Prop :=
  FormatOf 0x04 ∧ ∀ (rd rs1 : Reg) (s : State), ∃ v, Writes (.bitlen rd rs1) s rd v ∧
    (s.x rs1 = 0 → v = 0) ∧ (s.x rs1 ≠ 0 → 1 ≤ v ∧ 2 ^ (v - 1) ≤ s.x rs1 ∧ s.x rs1 < 2 ^ v) ∧
    (s.x rs1 < 2 ^ (32 * s.nw) → v ≤ 32 * s.nw)

/-! ### The Montgomery core -/

/-- 41_montgomery.md R120: an odd value becomes MOD, with the W-bit NPRIME for which MOD·NPRIME ≡ −1 (mod 2^W) and
R2 = (2^W)² mod MOD, and sets MODV; an even one clears MODV and fails with MODULUS; no operand register is written. -/
def Obligations.SetmodLoadsOddModuli : Prop :=
  FormatOf 0x08 ∧ ∀ (rs1 : Reg) (s : State),
    (s.x rs1 % 2 = 1 → Runs (.setmod rs1) s fun t =>
      t.Completed ∧ State.RegsExcept [] s t ∧ s.SameErrors t ∧ s.SameRest t ∧
      t.modulus = s.x rs1 ∧ t.nprime < 2 ^ (32 * s.nw) ∧ (s.x rs1 * t.nprime + 1) % 2 ^ (32 * s.nw) = 0 ∧
      t.r2 = (2 ^ (32 * s.nw)) ^ 2 % s.x rs1 ∧ t.modv = true ∧ t.statusWord.getLsbD 2 = true) ∧
    (s.x rs1 % 2 = 0 → ∀ c, s.inflight = some c → Runs (.setmod rs1) s fun t =>
      State.Fails .modulus c false s t ∧ t.statusWord.getLsbD 2 = false)

/-- 41_montgomery.md R121: the result is a·b·Rinv mod MOD for every inverse Rinv of 2^W modulo MOD, and lies in
[0, MOD). -/
def Obligations.MontmulIsTheMontgomeryProduct : Prop :=
  FormatOf 0x09 ∧ ∀ (rd rs1 rs2 : Reg) (s : State),
    (s.modv = false → Errs (.montmul rd rs1 rs2) s .nomod) ∧
    (s.modv = true → (s.modulus ≤ s.x rs1 ∨ s.modulus ≤ s.x rs2) → Errs (.montmul rd rs1 rs2) s .domain) ∧
    (s.modv = true → s.modulus % 2 = 1 → s.x rs1 < s.modulus → s.x rs2 < s.modulus →
      ∃ v, Writes (.montmul rd rs1 rs2) s rd v ∧ v < s.modulus ∧
        ∀ rinv, 2 ^ (32 * s.nw) % s.modulus * rinv % s.modulus = 1 % s.modulus →
          v = s.x rs1 * s.x rs2 * rinv % s.modulus)

/-- 41_montgomery.md R122. -/
def Obligations.ModmulIsTheModularProduct : Prop :=
  FormatOf 0x0A ∧ ∀ (rd rs1 rs2 : Reg) (s : State),
    (s.modv = false → Errs (.modmul rd rs1 rs2) s .nomod) ∧
    (s.modv = true → (s.modulus ≤ s.x rs1 ∨ s.modulus ≤ s.x rs2) → Errs (.modmul rd rs1 rs2) s .domain) ∧
    (s.modv = true → s.x rs1 < s.modulus → s.x rs2 < s.modulus →
      Writes (.modmul rd rs1 rs2) s rd (s.x rs1 * s.x rs2 % s.modulus))

/-- 41_montgomery.md R123. -/
def Obligations.TomontConvertsIntoTheDomain : Prop :=
  FormatOf 0x0B ∧ ∀ (rd rs1 : Reg) (s : State),
    (s.modv = false → Errs (.tomont rd rs1) s .nomod) ∧
    (s.modv = true → s.modulus ≤ s.x rs1 → Errs (.tomont rd rs1) s .domain) ∧
    (s.modv = true → s.x rs1 < s.modulus →
      Writes (.tomont rd rs1) s rd (s.x rs1 * 2 ^ (32 * s.nw) % s.modulus))

/-- 41_montgomery.md R124: the result is a·Rinv mod MOD, and converting a TOMONT result back gives the value. -/
def Obligations.FrommontConvertsOutOfTheDomain : Prop :=
  FormatOf 0x0C ∧ ∀ (rd rs1 : Reg) (s : State),
    (s.modv = false → Errs (.frommont rd rs1) s .nomod) ∧
    (s.modv = true → s.modulus ≤ s.x rs1 → Errs (.frommont rd rs1) s .domain) ∧
    (s.modv = true → s.modulus % 2 = 1 → s.x rs1 < s.modulus →
      ∃ v, Writes (.frommont rd rs1) s rd v ∧ v < s.modulus ∧
        (∀ rinv, 2 ^ (32 * s.nw) % s.modulus * rinv % s.modulus = 1 % s.modulus →
          v = s.x rs1 * rinv % s.modulus) ∧
        ∀ a, a < s.modulus → s.x rs1 = a * 2 ^ (32 * s.nw) % s.modulus → v = a)

/-- 41_montgomery.md R125. -/
def Obligations.ReduceTakesAnyValue : Prop :=
  FormatOf 0x0D ∧ ∀ (rd rs1 : Reg) (s : State),
    (s.modv = false → Errs (.reduce rd rs1) s .nomod) ∧
    (s.modv = true → Writes (.reduce rd rs1) s rd (s.x rs1 % s.modulus))

/-! ### Exponentiation, GCD and inverse -/

/-- 42_modexp.md R140. -/
def Obligations.ModexpIsThePowerModMod : Prop :=
  FormatOf 0x10 ∧ ∀ (rd rs1 rs2 : Reg) (s : State),
    (s.modv = false → Errs (.modexp rd rs1 rs2) s .nomod) ∧
    (s.modv = true → Writes (.modexp rd rs1 rs2) s rd ((s.x rs1 % s.modulus) ^ s.x rs2 % s.modulus))

/-- 43_gcd_inverse.md R150: the three results are those of the rule's loop, the first is the gcd, and the exact
coefficients are a Bezout pair. -/
def Obligations.XgcdRunsTheClassicLoop : Prop :=
  FormatOf 0x12 ∧ ∀ (rd rs1 rs2 : Reg) (s : State), rd.val ≤ 5 → ∃ (g : Nat) (x y : Int),
    EuclidEnds (s.x rs1) (s.x rs2) 1 0 0 1 g x y ∧ g = Nat.gcd (s.x rs1) (s.x rs2) ∧
      (s.x rs1 : Int) * x + (s.x rs2 : Int) * y = g ∧
      Runs (.xgcd rd rs1 rs2) s fun t =>
        State.Succeeds [rd, member rd 1, member rd 2] s t ∧ t.x rd = g ∧
          ((t.x (member rd 1) : Nat) : Int) = x % (2 ^ (32 * s.nw) : Int) ∧
          ((t.x (member rd 2) : Nat) : Int) = y % (2 ^ (32 * s.nw) : Int)

/-- 43_gcd_inverse.md R151. -/
def Obligations.ModinvFindsTheInverse : Prop :=
  FormatOf 0x13 ∧ ∀ (rd rs1 rs2 : Reg) (s : State),
    ((s.x rs2 = 0 ∨ Nat.gcd (s.x rs1) (s.x rs2) ≠ 1) → Errs (.modinv rd rs1 rs2) s .arith) ∧
    (s.x rs2 ≠ 0 → Nat.gcd (s.x rs1) (s.x rs2) = 1 →
      ∃ v, Writes (.modinv rd rs1 rs2) s rd v ∧ v < s.x rs2 ∧ s.x rs1 * v % s.x rs2 = 1 % s.x rs2)

/-! ### The prime validator -/

/-- 44_prime.md R160. -/
def Obligations.MrtestRunsOneMillerRabinRound : Prop :=
  FormatOf 0x14 ∧ ∀ (rd rs1 rs2 : Reg) (s : State),
    (s.x rs1 = 2 → Writes (.mrtest rd rs1 rs2) s rd 1) ∧
    (s.x rs1 ≠ 2 → (s.x rs1 < 2 ∨ s.x rs1 % 2 = 0) → Writes (.mrtest rd rs1 rs2) s rd 0) ∧
    (3 ≤ s.x rs1 → s.x rs1 % 2 = 1 → (s.x rs2 = 0 ∨ s.x rs1 ≤ s.x rs2) →
      Errs (.mrtest rd rs1 rs2) s .domain) ∧
    (3 ≤ s.x rs1 → s.x rs1 % 2 = 1 → 1 ≤ s.x rs2 → s.x rs2 < s.x rs1 →
      ∃ v, Writes (.mrtest rd rs1 rs2) s rd v ∧
        ∀ k d, s.x rs1 - 1 = 2 ^ k * d → d % 2 = 1 →
          IsVerdict (s.x rs2 ^ d % s.x rs1 = 1 ∨
            ∃ r, r < k ∧ s.x rs2 ^ (2 ^ r * d) % s.x rs1 = s.x rs1 - 1) v)

/-- 44_prime.md R161: with k the immediate, bit 0 of the result says 2^(k−1) ≤ c < 2^k (c = 0 for k = 0), bit 1 that
c ≥ 1 and gcd(c − 1, e) = 1. -/
def Obligations.RsachkChecksLengthAndGcd : Prop :=
  FormatOf 0x15 ∧ ∀ (rd rs1 rs2 : Reg) (imm : Imm) (s : State), ∃ b0 b1,
    Writes (.rsachk rd rs1 rs2 imm) s rd (b0 + 2 * b1) ∧
      IsVerdict (s.x rs1 < 2 ^ imm.toNat ∧ (imm.toNat ≠ 0 → 2 ^ (imm.toNat - 1) ≤ s.x rs1)) b0 ∧
      IsVerdict (1 ≤ s.x rs1 ∧ Nat.gcd (s.x rs1 - 1) (s.x rs2) = 1) b1

/-- A prime passes every admissible base: for an odd prime n and a base in [1, n − 1], MRTEST writes 1. -/
def Obligations.MrtestPassesEveryPrime : Prop :=
  ∀ (rd rs1 rs2 : Reg) (s : State), Nat.Prime (s.x rs1) → s.x rs1 ≠ 2 → 1 ≤ s.x rs2 → s.x rs2 < s.x rs1 →
    Writes (.mrtest rd rs1 rs2) s rd 1

/-! ### RSA -/

/-- 45_rsa.md R170. -/
def Obligations.CrtsignRunsTheCrtFormula : Prop :=
  FormatOf 0x18 ∧ ∀ (rd rs1 rs2 : Reg) (s : State) (m p q dP dQ qInv : Nat), rs2.val ≤ 3 →
    m = s.x rs1 → p = s.x rs2 → q = s.x (member rs2 1) → dP = s.x (member rs2 2) → dQ = s.x (member rs2 3) →
    qInv = s.x (member rs2 4) →
    ((p % 2 = 0 ∨ q % 2 = 0) → Errs (.crtsign rd rs1 rs2) s .modulus) ∧
    (p % 2 = 1 → q % 2 = 1 → 2 ^ (32 * s.nw) ≤ p * q → Errs (.crtsign rd rs1 rs2) s .overflow) ∧
    (p % 2 = 1 → q % 2 = 1 → p * q < 2 ^ (32 * s.nw) → p * q ≤ m → Errs (.crtsign rd rs1 rs2) s .domain) ∧
    (p % 2 = 1 → q % 2 = 1 → p * q < 2 ^ (32 * s.nw) → m < p * q →
      ∃ h : Nat, (h : Int) = (qInv : Int) * (((m ^ dP % p : Nat) - (m ^ dQ % q : Nat) : Int) % p) % p ∧
        Writes (.crtsign rd rs1 rs2) s rd ((m ^ dQ % q + h * q) % (p * q)))

/-- 45_rsa.md R171. -/
def Obligations.VerifyComparesTheOpenedSignature : Prop :=
  FormatOf 0x19 ∧ ∀ (rd rs1 rs2 : Reg) (s : State) (m sig e n : Nat), rs2.val ≤ 5 →
    m = s.x rs1 → sig = s.x rs2 → e = s.x (member rs2 1) → n = s.x (member rs2 2) →
    (n % 2 = 0 → Errs (.verify rd rs1 rs2) s .modulus) ∧
    (n % 2 = 1 → n ≤ m → Errs (.verify rd rs1 rs2) s .domain) ∧
    (n % 2 = 1 → m < n → ∃ v, Writes (.verify rd rs1 rs2) s rd v ∧ IsVerdict (sig ^ e % n = m) v)

/-- 45_rsa.md R172: for a key that meets the invariants and every m below n, CRTSIGN writes m^d mod n, as does MODEXP
of m by d with MOD = n, and VERIFY of that signature writes 1. -/
def Obligations.CrtSignatureIsThePowerAndVerifies : Prop :=
  ∀ (rd rs1 rs2 : Reg) (s : State) (m p q d e : Nat), rs2.val ≤ 3 →
    m = s.x rs1 → p = s.x rs2 → q = s.x (member rs2 1) →
    Nat.Prime p → Nat.Prime q → p % 2 = 1 → q % 2 = 1 → d * e % Nat.lcm (p - 1) (q - 1) = 1 →
    s.x (member rs2 2) = d % (p - 1) → s.x (member rs2 3) = d % (q - 1) → s.x (member rs2 4) * q % p = 1 →
    p * q < 2 ^ (32 * s.nw) → m < p * q →
    Writes (.crtsign rd rs1 rs2) s rd (m ^ d % (p * q)) ∧
      (∀ (rm r1 r2 : Reg) (u : State), u.modv = true → u.modulus = p * q → u.x r1 = m → u.x r2 = d →
        Writes (.modexp rm r1 r2) u rm (m ^ d % (p * q))) ∧
      ∀ (rv r1 r2 : Reg) (u : State), r2.val ≤ 5 → u.x r1 = m → u.x r2 = m ^ d % (p * q) →
        u.x (member r2 1) = e → u.x (member r2 2) = p * q → Writes (.verify rv r1 r2) u rv 1

/-! ### Proof of work -/

/-- 46_pow.md R180. -/
def Obligations.PowchkComparesWithTheTarget : Prop :=
  FormatOf 0x1C ∧ ∀ (rd rs1 : Reg) (imm : Imm) (s : State),
    ∃ v, Writes (.powchk rd rs1 imm) s rd v ∧ IsVerdict (s.x rs1 < 2 ^ imm.toNat) v

/-- 46_pow.md R181. -/
def Obligations.BlkchkNeedsAMatchBelowTheTarget : Prop :=
  FormatOf 0x1D ∧ ∀ (rd rs1 rs2 : Reg) (imm : Imm) (s : State),
    ∃ v, Writes (.blkchk rd rs1 rs2 imm) s rd v ∧
      IsVerdict (s.x rs1 = s.x rs2 ∧ s.x rs2 < 2 ^ imm.toNat) v

/-! ### Frames and errors -/

/-- Whatever the command and its outcome: only its destination registers change among X0..X7, only SETMOD changes
MOD, NPRIME, R2 or MODV, and CTRL never changes. -/
def Obligations.OnlyDestinationsAreWritten : Prop :=
  ∀ (i : Instr) (s t : State), exec i s = .next t →
    State.RegsExcept (dests i) s t ∧ (¬ IsSetmod i → s.SameConstants t ∧ t.modv = s.modv) ∧ s.SameRest t

/-- A command that records an error completes, writes no operand register, MOD, NPRIME or R2, and changes MODV only
if it is a SETMOD, which then clears it. -/
def Obligations.FailingCommandWritesNoResult : Prop :=
  ∀ (i : Instr) (s t : State), exec i s = .next t → s.err = false → t.err = true →
    t.Completed ∧ State.RegsExcept [] s t ∧ s.SameConstants t ∧ (¬ IsSetmod i → t.modv = s.modv) ∧
      (IsSetmod i → t.modv = false)

/-- A command changes what the bus reads only in STATUS, in ERRINFO, in the windows of its destination registers and,
for SETMOD, in the windows of MOD, NPRIME and R2. -/
def Obligations.CommandsLeaveOtherAddressesAlone : Prop :=
  ∀ (i : Instr) (s t : State) (a : Addr), exec i s = .next t → wordNumber a ≠ 3 → wordNumber a ≠ 5 →
    (∀ k ∈ dests i, ∀ j, j < 256 → wordNumber a ≠ xWord k j) →
    (IsSetmod i → wordNumber a < 0x3000 / 4 ∨ 0x3C00 / 4 ≤ wordNumber a) → t.busRead a = s.busRead a

/-- `record_error` of 60_exceptions.md R202: the first error is kept, and nothing else changes. -/
def Obligations.RecordErrorKeepsTheFirst : Prop :=
  ∀ (s : State) (code : ErrCode) (info : Word),
    (s.err = false → s.recordError code info = { s with err := true, ecode := code, errinfo := info }) ∧
    (s.err = true → s.recordError code info = s)

/-! ### Status, control and the interrupt line -/

/-- 10_state.md R34. -/
def Obligations.InterruptLineIsALevelOfState : Prop :=
  (∀ s : State, s.irq = true ↔ (s.ie = true ∧ s.done = true) ∨ (s.eie = true ∧ s.err = true)) ∧
    (∀ k, (State.resetOf k).irq = false) ∧ State.reset.irq = false

/-- 10_state.md R27: the STATUS image; a write to STATUS, busy or not; BUSY from the issue to the completion; DONE set
by every completion and cleared by the issue; ECODE 0 while ERR is 0 (in states that keep the invariant). -/
def Obligations.StatusImageAndWrite : Prop :=
  (∀ s : State, s.statusWord.toNat =
    bit s.busy + 2 * bit s.done + 4 * bit s.modv + 8 * bit s.err + 16 * codeNumber s.ecode) ∧
  (∀ (s : State) (a : Addr) (v : Word), wordNumber a = 3 → s.busWrite a v =
    { s with
      done := if v.getLsbD 1 then false else s.done
      err := if v.getLsbD 3 then false else s.err
      ecode := if v.getLsbD 3 then .none else s.ecode
      errinfo := if v.getLsbD 3 then 0 else s.errinfo }) ∧
  (∀ (s : State) (a : Addr) (v : Word), s.busy = false → wordNumber a = 4 →
    (s.busWrite a v).busy = true ∧ (s.busWrite a v).done = false) ∧
  (∀ s : State, s.busy = true → ∃ t, s.engine = .next t ∧ t.busy = false ∧ t.done = true) ∧
  (∀ s : State, s.Inv → s.err = false → s.ecode = .none) ∧
  (∀ k, (State.resetOf k).statusWord = 0#32)

/-- 10_state.md R28: the CTRL image, and a write to CTRL, busy or not. -/
def Obligations.ControlImageAndWrite : Prop :=
  (∀ s : State, s.ctrlWord.toNat = bit s.ie + 2 * bit s.eie) ∧
  (∀ (s : State) (a : Addr) (v : Word), wordNumber a = 2 →
    s.busWrite a v = { s with ie := v.getLsbD 0, eie := v.getLsbD 1 }) ∧
  (∀ k, (State.resetOf k).ctrlWord = 0#32)

/-! ### The bus -/

/-- 20_memory.md R58: what every address reads, and that a read transaction changes no register of the block (the log
of reads is the model's own). -/
def Obligations.ReadsReturnTheMapAndChangeNothing : Prop :=
  (∀ (s : State) (a : Addr),
    (wordNumber a = 0 → s.busRead a = 0x4D4D0001#32) ∧
    (wordNumber a = 1 → (s.busRead a).toNat = s.nw + 8 * 2 ^ 16) ∧
    (wordNumber a = 2 → (s.busRead a).toNat = bit s.ie + 2 * bit s.eie) ∧
    (wordNumber a = 3 → (s.busRead a).toNat =
      bit s.busy + 2 * bit s.done + 4 * bit s.modv + 8 * bit s.err + 16 * codeNumber s.ecode) ∧
    (wordNumber a = 4 → s.busRead a = 0#32) ∧
    (wordNumber a = 5 → s.busRead a = s.errinfo) ∧
    (∀ i j, j < 256 → wordNumber a = xWord i j → (s.busRead a).toNat = bitsOf s (s.x i) j) ∧
    (∀ j, j < 256 → wordNumber a = 0x3000 / 4 + j → (s.busRead a).toNat = bitsOf s s.modulus j) ∧
    (∀ j, j < 256 → wordNumber a = 0x3400 / 4 + j → (s.busRead a).toNat = bitsOf s s.nprime j) ∧
    (∀ j, j < 256 → wordNumber a = 0x3800 / 4 + j → (s.busRead a).toNat = bitsOf s s.r2 j) ∧
    ((6 ≤ wordNumber a ∧ wordNumber a < 0x1000 / 4) ∨ 0x3C00 / 4 ≤ wordNumber a → s.busRead a = 0#32)) ∧
  (∀ (s : State) (a : Addr) (cs : List Cycle),
    s.inputs = { rst := false, bus := some (.read a), finish := false } :: cs →
    step s = .next { s with inputs := cs, readLog := s.busRead a :: s.readLog })

/-- 20_memory.md R56: the writes accepted while no command is in flight. -/
def Obligations.IdleWritesHaveExactlyTheirEffect : Prop :=
  ∀ (s : State) (a : Addr) (v : Word), s.busy = false →
    (wordNumber a = 2 → s.busWrite a v = { s with ie := v.getLsbD 0, eie := v.getLsbD 1 }) ∧
    (wordNumber a = 3 → s.busWrite a v =
      { s with
        done := if v.getLsbD 1 then false else s.done
        err := if v.getLsbD 3 then false else s.err
        ecode := if v.getLsbD 3 then .none else s.ecode
        errinfo := if v.getLsbD 3 then 0 else s.errinfo }) ∧
    (wordNumber a = 4 → s.busWrite a v = { s with inflight := some v, done := false }) ∧
    (∀ i j, j < 256 → wordNumber a = xWord i j →
      (j < s.nw → OnlyRegs s (s.busWrite a v) ∧ (∀ k, k ≠ i → (s.busWrite a v).x k = s.x k) ∧
        ∀ b, ((s.busWrite a v).x i).testBit b =
          if 32 * j ≤ b ∧ b ≤ 32 * j + 31 then v.getLsbD (b - 32 * j) else (s.x i).testBit b) ∧
      (s.nw ≤ j → s.busWrite a v = s)) ∧
    (wordNumber a < 2 ∨ (5 ≤ wordNumber a ∧ wordNumber a < 0x1000 / 4) ∨ 0x3000 / 4 ≤ wordNumber a →
      s.busWrite a v = s)

/-- 20_memory.md R57: the writes while a command is in flight. -/
def Obligations.BusyWritesAreRejectedOrHarmless : Prop :=
  ∀ (s : State) (a : Addr) (v : Word), s.busy = true →
    (wordNumber a = 4 ∨ (0x1000 / 4 ≤ wordNumber a ∧ wordNumber a < 0x3000 / 4) →
      s.busWrite a v =
        if s.err then s else { s with err := true, ecode := .busy, errinfo := BitVec.ofNat 32 a.toNat }) ∧
    (wordNumber a = 2 → s.busWrite a v = { s with ie := v.getLsbD 0, eie := v.getLsbD 1 }) ∧
    (wordNumber a = 3 → s.busWrite a v =
      { s with
        done := if v.getLsbD 1 then false else s.done
        err := if v.getLsbD 3 then false else s.err
        ecode := if v.getLsbD 3 then .none else s.ecode
        errinfo := if v.getLsbD 3 then 0 else s.errinfo }) ∧
    (wordNumber a < 2 ∨ (5 ≤ wordNumber a ∧ wordNumber a < 0x1000 / 4) ∨ 0x3000 / 4 ≤ wordNumber a →
      s.busWrite a v = s)

/-- An accepted write of a register word reads back, and every other word of the window reads as before. -/
def Obligations.WindowWordsReadBackAndOthersStay : Prop :=
  ∀ (s : State) (i : Reg) (j : Nat) (a : Addr) (v : Word), s.busy = false → j < s.nw → wordNumber a = xWord i j →
    (s.busWrite a v).busRead a = v ∧
      ∀ b : Addr, wordNumber b ≠ wordNumber a → (s.busWrite a v).busRead b = s.busRead b

/-- Address bits 1:0 select nothing: two addresses of one word read alike and, while idle, are written alike. -/
def Obligations.AddressBitsOneAndZeroAreIgnored : Prop :=
  ∀ (s : State) (a b : Addr), wordNumber a = wordNumber b →
    s.busRead a = s.busRead b ∧ ∀ v, s.busy = false → s.busWrite a v = s.busWrite b v

/-- 40_control.md R100: a CMD write while idle issues the word, whatever it is and whatever the error record holds;
while a command is in flight it is no issue. -/
def Obligations.CmdWriteIssuesWhileIdle : Prop :=
  ∀ (s : State) (c : Word) (cs : List Cycle),
    s.inputs = { rst := false, bus := some (.write 0x0010#16 c), finish := false } :: cs →
    (s.busy = false → ∃ t, step s = .next t ∧ t = { s with inputs := cs, inflight := some c, done := false } ∧
      t.busy = true) ∧
    (s.busy = true → ∃ t, step s = .next t ∧ t.inflight = s.inflight ∧ t.done = s.done)

/-- While a command is in flight, no bus transaction changes the command, an operand register or the modulus state. -/
def Obligations.BusyProtectsTheOperands : Prop :=
  ∀ (s : State) (tr : Transaction), s.busy = true →
    (s.transact tr).inflight = s.inflight ∧ (s.transact tr).regs = s.regs ∧ s.SameConstants (s.transact tr) ∧
      (s.transact tr).modv = s.modv

/-! ### Reset and cycles -/

/-- 10_state.md R38. -/
def Obligations.ResetStateHasTheResetValues : Prop :=
  (∀ k, ∀ s, s = State.resetOf k → (∀ i, s.x i = 0) ∧ s.modulus = 0 ∧ s.nprime = 0 ∧ s.r2 = 0 ∧ s.modv = false ∧
    s.statusWord = 0x00000000#32 ∧ s.busy = false ∧ s.done = false ∧ s.err = false ∧ s.ecode = .none ∧
    s.ctrlWord = 0x00000000#32 ∧ s.ie = false ∧ s.eie = false ∧ s.errinfo = 0 ∧ s.inflight = none ∧
    s.irq = false ∧ s.busRead 0x0000#16 = 0x4D4D0001#32 ∧ (s.busRead 0x0004#16).toNat = s.nw + 8 * 2 ^ 16 ∧
    s.nwIndex = k) ∧
  ∃ k, State.reset = State.resetOf k

/-- 70_reset_and_hazards.md R230: a cycle with `rst` 1 resets every register, discards the command in flight and gives
a transaction or a completion presented in it no effect; a read returns the reset value (log 7 for the cycle in which
`rst` rises). -/
def Obligations.ResetCycleResetsEverything : Prop :=
  ∀ (s : State) (cy : Cycle) (cs : List Cycle), s.inputs = cy :: cs → cy.rst = true →
    ∃ t, step s = .next t ∧
      t = { State.resetOf s.nwIndex with readLog := t.readLog, inputs := cs } ∧
      (∀ a, cy.bus = some (.read a) → t.readLog = (State.resetOf s.nwIndex).busRead a :: s.readLog) ∧
      ((∀ a, cy.bus ≠ some (.read a)) → t.readLog = s.readLog)

/-- 60_exceptions.md R204: in one cycle the transaction comes first and sees BUSY 1, so a CMD or X write is rejected
and its record stands even if the command fails; a W1C of DONE has no lasting effect; reset wins over both. -/
def Obligations.OneCycleOrdersItsEvents : Prop :=
  ∀ (s : State) (cy : Cycle) (cs : List Cycle), s.inputs = cy :: cs → s.busy = true → cy.finish = true →
    (cy.rst = false → step s = (State.transactIn { s with inputs := cs } cy.bus).engine) ∧
    (∀ a v, cy.rst = false → cy.bus = some (.write a v) →
      (wordNumber a = 4 ∨ (0x1000 / 4 ≤ wordNumber a ∧ wordNumber a < 0x3000 / 4)) → s.err = false →
      ∃ t, step s = .next t ∧ t.Completed ∧ t.err = true ∧ t.ecode = .busy ∧
        t.errinfo = BitVec.ofNat 32 a.toNat) ∧
    (∀ a v, cy.rst = false → cy.bus = some (.write a v) → wordNumber a = 3 → v.getLsbD 1 = true →
      ∃ t, step s = .next t ∧ t.done = true) ∧
    (cy.rst = true → ∃ t, step s = .next t ∧ t.inflight = none ∧ t.done = false ∧ t.err = false ∧
      ∀ i, t.x i = 0)

/-- The results of a command do not depend on when its completion falls, nor on what the host presents meanwhile: after
any cycles without reset in which the completion does not fall, completing gives the same operand registers (verdicts
among them) and the same modulus state as completing at once (10_state.md R33, 20_memory.md R60). That the host's
cycles are a list the step reads, and that the completion falls where it is placed, is the model's choice (logs 3
and 4). -/
def Obligations.ResultsDoNotDependOnTheLatency : Prop :=
  ∀ (s : State) (c : Word) (cs : List Cycle), s.inflight = some c →
    (∀ cy ∈ cs, cy.rst = false ∧ cy.finish = false) →
    ∃ u : State, Sys2Proof.core.run cs.length { s with inputs := cs } = .next u ∧
      ∃ t t' : State, s.engine = .next t ∧ u.engine = .next t' ∧ t'.regs = t.regs ∧ t.SameConstants t' ∧
        t'.modv = t.modv

/-! ### Invariants -/

/-- The invariant holds right after reset, for every NW. -/
def Obligations.InvariantHoldsAtReset : Prop := (∀ k, (State.resetOf k).Inv) ∧ State.reset.Inv

/-- Every step keeps the invariant: registers hold W-bit values, a loaded modulus is odd with its constants, MODV
says so, the error record is 0 while ERR is 0, and DONE is 0 while a command is in flight. -/
def Obligations.EveryStepKeepsTheInvariant : Prop := ∀ s t : State, s.Inv → step s = .next t → t.Inv

/-! ### Montgomery arithmetic -/

/-- 00_scope.md R17, for the constants the model computes. -/
def Obligations.MontgomeryConstantsMeetTheirDefinitions : Prop :=
  ∀ w n : Nat, n % 2 = 1 → n < 2 ^ w →
    Nat.gcd n (2 ^ w) = 1 ∧
    (rInv (2 ^ w) n < n ∧ 2 ^ w % n * rInv (2 ^ w) n % n = 1 % n) ∧
    (nPrimeOf (2 ^ w) n < 2 ^ w ∧ (n * nPrimeOf (2 ^ w) n + 1) % 2 ^ w = 0) ∧
    r2Of (2 ^ w) n = (2 ^ w) ^ 2 % n ∧
    ∀ a b, a < n → b < n →
      montProd (2 ^ w) n (a * 2 ^ w % n) (b * 2 ^ w % n) = a * b * 2 ^ w % n ∧
      montProd (2 ^ w) n a 1 = a * rInv (2 ^ w) n % n

/-- The reference algorithms of 41_montgomery.md R131 (information only) give the results of the formulas: the
word-serial product, the Newton iteration for NPRIME (its last step is `(2^W − y) mod 2^W`, with `Nat.clog 2 W` passes),
the doubling for R2. TOMONT, FROMMONT, MODMUL and REDUCE stand here as the formulas of their results, each equal to the
products R131 writes, and not as commands; log 19. -/
def Obligations.ReferenceAlgorithmsGiveTheFormulas : Prop :=
  ∀ nw n a b : Nat, 1 ≤ nw → n % 2 = 1 → n < 2 ^ (32 * nw) → a < n → b < n →
    ciosProduct nw n a b = montProd (2 ^ (32 * nw)) n a b ∧
    (2 ^ (32 * nw) - newtonInverse (2 ^ (32 * nw)) n (Nat.clog 2 (32 * nw))) % 2 ^ (32 * nw) =
      nPrimeOf (2 ^ (32 * nw)) n ∧
    doubledRadix (2 ^ (32 * nw)) n (32 * nw) = r2Of (2 ^ (32 * nw)) n ∧
    montProd (2 ^ (32 * nw)) n a (r2Of (2 ^ (32 * nw)) n) = a * 2 ^ (32 * nw) % n ∧
    montProd (2 ^ (32 * nw)) n a 1 = a * rInv (2 ^ (32 * nw)) n % n ∧
    montProd (2 ^ (32 * nw)) n (montProd (2 ^ (32 * nw)) n a b) (r2Of (2 ^ (32 * nw)) n) = a * b % n ∧
    ∀ c, c < 2 ^ (32 * nw) →
      montProd (2 ^ (32 * nw)) n (montProd (2 ^ (32 * nw)) n c (r2Of (2 ^ (32 * nw)) n)) 1 = c % n

/-- 41_montgomery.md R127, over the commands themselves; `t.x rd` is the result of the last command of each side. -/
def Obligations.MontgomeryCommandsObeyTheLaws : Prop :=
  ∀ (s : State) (ra rb : Reg), s.Inv → s.modv = true → s.x ra < s.modulus → s.x rb < s.modulus →
    (∀ (r3 r4 r5 r6 r7 : Reg) (s1 s2 s3 s4 u : State), r3 ≠ rb → r3 ≠ r4 →
      exec (.tomont r3 ra) s = .next s1 → exec (.tomont r4 rb) s1 = .next s2 →
      exec (.montmul r5 r3 r4) s2 = .next s3 → exec (.frommont r6 r5) s3 = .next s4 →
      exec (.modmul r7 ra rb) s = .next u → s4.x r6 = u.x r7) ∧
    (∀ (r3 r4 : Reg) (t u : State), s.x rb = s.r2 → exec (.tomont r3 ra) s = .next t →
      exec (.montmul r4 ra rb) s = .next u → t.x r3 = u.x r4) ∧
    (∀ (r3 r4 : Reg) (t u : State), 1 < s.modulus → s.x rb = 1 → exec (.frommont r3 ra) s = .next t →
      exec (.montmul r4 ra rb) s = .next u → t.x r3 = u.x r4) ∧
    (∀ (r3 r4 : Reg) (t u : State), exec (.montmul r3 ra rb) s = .next t →
      exec (.montmul r4 rb ra) s = .next u → t.x r3 = u.x r4)

/-- 41_montgomery.md R129. -/
def Obligations.ModulusOneGivesZero : Prop :=
  ∀ (s : State) (rd rs1 rs2 : Reg), s.modv = true → s.modulus = 1 →
    (s.x rs1 = 0 → s.x rs2 = 0 → Writes (.montmul rd rs1 rs2) s rd 0 ∧ Writes (.modmul rd rs1 rs2) s rd 0) ∧
    (s.x rs1 = 0 → Writes (.tomont rd rs1) s rd 0 ∧ Writes (.frommont rd rs1) s rd 0) ∧
    Writes (.reduce rd rs1) s rd 0 ∧ Writes (.modexp rd rs1 rs2) s rd 0 ∧
    ((s.x rs1 ≠ 0 ∨ s.x rs2 ≠ 0) →
      Errs (.montmul rd rs1 rs2) s .domain ∧ Errs (.modmul rd rs1 rs2) s .domain) ∧
    (s.x rs1 ≠ 0 → Errs (.tomont rd rs1) s .domain ∧ Errs (.frommont rd rs1) s .domain)

/-- 42_modexp.md R141: MODEXP writes what square-and-multiply over MONTMUL gives: reduce the base, convert it and 1
into the domain, square and multiply over the exponent's bits from the top, convert back. -/
def Obligations.ModexpAgreesWithSquareAndMultiply : Prop :=
  ∀ (rd rs1 rs2 : Reg) (s : State), s.modv = true → s.modulus % 2 = 1 →
    Writes (.modexp rd rs1 rs2) s rd
      (ladder (2 ^ (32 * s.nw)) s.modulus (s.x rs1 % s.modulus * 2 ^ (32 * s.nw) % s.modulus)
          (Nat.bits (s.x rs2)).reverse (1 * 2 ^ (32 * s.nw) % s.modulus) *
        rInv (2 ^ (32 * s.nw)) s.modulus % s.modulus)

/-- 43_gcd_inverse.md R152: the coefficients of W-bit operands lie strictly between −2^(W−1) and 2^(W−1), so the
registers XGCD writes, read as W-bit two's complement, hold exactly them. -/
def Obligations.XgcdCoefficientsFit : Prop :=
  ∀ (rd rs1 rs2 : Reg) (s : State) (g : Nat) (x y : Int), rd.val ≤ 5 →
    s.x rs1 < 2 ^ (32 * s.nw) → s.x rs2 < 2 ^ (32 * s.nw) →
    EuclidEnds (s.x rs1) (s.x rs2) 1 0 0 1 g x y →
    (-(2 ^ (32 * s.nw - 1) : Int) < x ∧ x < 2 ^ (32 * s.nw - 1)) ∧
    (-(2 ^ (32 * s.nw - 1) : Int) < y ∧ y < 2 ^ (32 * s.nw - 1)) ∧
    Runs (.xgcd rd rs1 rs2) s fun t =>
      (BitVec.ofNat (32 * s.nw) (t.x (member rd 1))).toInt = x ∧
        (BitVec.ofNat (32 * s.nw) (t.x (member rd 2))).toInt = y

/-! ### Host software -/

/-- The assembler emits no BADCMD word: a line it accepts gives a command whose word decodes to that command. -/
def Obligations.AssemblerEmitsOnlyLegalWords : Prop :=
  ∀ (line : List Char) (i : Instr), assembleLine line = some i → decode (encode i) = .ok i

/-- `ld xi, v`: its NW word writes, presented while idle, leave v in Xi and every other register as it was. -/
def Obligations.LdLoadsTheValue : Prop :=
  ∀ (s : State) (i : Reg) (v : Nat), s.busy = false → s.x i < 2 ^ (32 * s.nw) → v < 2 ^ (32 * s.nw) →
    s.inputs = hostOpCycles s.nw (.ld i v) →
    ∃ t : State, Sys2Proof.core.run s.nw s = .next t ∧ t.x i = v ∧ (∀ k, k ≠ i → t.x k = s.x k) ∧
      t.inputs = [] ∧ t = { s with regs := t.regs, inputs := [] }
end

