-- ==== Sys2Proof/Laws/Arith.lean ====
section
/-!
SUPPORT. The computed operators of Sys2Proof/Machine/Arith.lean equal the formulas of 00_scope.md R12 and R17 (log 13).
-/

namespace Sys2Proof.Laws

open Sys2Proof.Machine

/-! ### Bit length -/

/-- `bitlen v ≤ k` says that `v` fits k bits. -/
theorem bitlen_le_iff (v k : Nat) : bitlen v ≤ k ↔ v < 2 ^ k := by
  unfold bitlen
  split
  · rename_i h; subst h; simp
  · rename_i h
    rw [Nat.add_one_le_iff, Nat.log2_lt h]

/-- A number fits its bit length. -/
theorem lt_two_pow_bitlen (v : Nat) : v < 2 ^ bitlen v := (bitlen_le_iff v _).1 le_rfl

/-! ### Powers -/

/-- Squaring computes the power. -/
theorem powFuel_eq (b m : Nat) : ∀ fuel e, e < 2 ^ fuel → powFuel b m fuel e = b ^ e % m := by
  intro fuel
  induction fuel with
  | zero => intro e he; have : e = 0 := by simpa using he
            subst this; simp [powFuel]
  | succ k ih =>
    intro e he
    rw [powFuel]
    split
    · rename_i h; subst h; simp
    · have hk : e / 2 < 2 ^ k := by rw [pow_succ] at he; omega
      rw [ih _ hk]
      have hsq : b ^ (e / 2) % m * (b ^ (e / 2) % m) % m = b ^ (2 * (e / 2)) % m := by
        rw [← Nat.mul_mod, ← pow_add, two_mul]
      simp only [hsq]
      split
      · rename_i h1
        have he2 : e = 2 * (e / 2) + 1 := by omega
        conv_rhs => rw [he2, pow_succ]
        rw [Nat.mul_mod, Nat.mod_mod, ← Nat.mul_mod]
      · rename_i h1
        have he2 : e = 2 * (e / 2) := by omega
        conv_rhs => rw [he2]

/-- `pow(b, e, m)` is `b^e mod m` (00_scope.md R12). -/
theorem powMod_eq (b e m : Nat) : powMod b e m = b ^ e % m := by
  rw [powMod, powFuel_eq _ _ _ _ (lt_two_pow_bitlen e), ← Nat.pow_mod]

/-! ### The extended Euclidean loop -/

/-- The loop keeps `a·s + b·t = r` for both columns. -/
structure BezoutOf (a b : Nat) (z : Bezout) : Prop where
  col0 : (a : Int) * z.s0 + b * z.t0 = z.r0
  col1 : (a : Int) * z.s1 + b * z.t1 = z.r1
  gcd : Nat.gcd z.r0 z.r1 = Nat.gcd a b

theorem bezoutPass_keeps {a b : Nat} {z : Bezout} (h : BezoutOf a b z) : BezoutOf a b (bezoutPass z) := by
  have hle : z.r0 / z.r1 * z.r1 ≤ z.r0 := Nat.div_mul_le_self _ _
  refine ⟨h.col1, ?_, ?_⟩
  · simp only [bezoutPass]
    push_cast [Nat.cast_sub hle]
    have h0 := h.col0
    have h1 := h.col1
    calc (a : Int) * (z.s0 - z.r0 / z.r1 * z.s1) + b * (z.t0 - z.r0 / z.r1 * z.t1)
        = (a * z.s0 + b * z.t0) - z.r0 / z.r1 * (a * z.s1 + b * z.t1) := by ring
      _ = _ := by rw [h0, h1]
  · simp only [bezoutPass]
    have : z.r0 - z.r0 / z.r1 * z.r1 = z.r0 % z.r1 := by
      rw [mul_comm]; have := Nat.div_add_mod z.r0 z.r1; omega
    rw [this, Nat.gcd_comm, ← Nat.gcd_rec, Nat.gcd_comm, h.gcd]

/-- A pass makes `r1` smaller. -/
theorem bezoutPass_r1_lt {z : Bezout} (h : z.r1 ≠ 0) : (bezoutPass z).r1 < z.r1 := by
  have : z.r0 - z.r0 / z.r1 * z.r1 = z.r0 % z.r1 := by
    rw [mul_comm]; have := Nat.div_add_mod z.r0 z.r1; omega
  simp only [bezoutPass, this]
  exact Nat.mod_lt _ (Nat.pos_of_ne_zero h)

/-- What the loop keeps, its result keeps, and it ends with `r1 = 0`. -/
theorem bezoutLoop_spec {a b : Nat} :
    ∀ fuel z, z.r1 < fuel → BezoutOf a b z → BezoutOf a b (bezoutLoop fuel z) ∧ (bezoutLoop fuel z).r1 = 0 := by
  intro fuel
  induction fuel with
  | zero => intro z h; omega
  | succ k ih =>
    intro z h hz
    rw [bezoutLoop]
    split
    · exact ⟨hz, ‹_›⟩
    · rename_i h0
      exact ih _ (by have := bezoutPass_r1_lt h0; omega) (bezoutPass_keeps hz)

/-- The loop of 43_gcd_inverse.md R150 ends with `r0 = gcd(a, b)` and a Bezout pair. -/
theorem xgcd_spec (a b : Nat) :
    (xgcd a b).r0 = Nat.gcd a b ∧ (a : Int) * (xgcd a b).s0 + b * (xgcd a b).t0 = (xgcd a b).r0 ∧
      (xgcd a b).r1 = 0 := by
  have h := bezoutLoop_spec (a := a) (b := b) (b + 1)
    { r0 := a, r1 := b, s0 := 1, s1 := 0, t0 := 0, t1 := 1 } (Nat.lt_succ_self b)
    ⟨by simp, by simp, rfl⟩
  change BezoutOf a b (xgcd a b) ∧ (xgcd a b).r1 = 0 at h
  refine ⟨?_, h.1.col0, h.2⟩
  have := h.1.gcd
  rwa [h.2, Nat.gcd_zero_right] at this

/-! ### Inverses and the Montgomery constants -/

/-- `inv(a, m)` lies in [0, m). -/
theorem invMod_lt (a : Nat) {m : Nat} (hm : 0 < m) : invMod a m < m := by
  have h1 := Int.emod_nonneg (xgcd (a % m) m).s0 (b := (m : Int)) (by omega)
  have h2 := Int.emod_lt_of_pos (xgcd (a % m) m).s0 (b := (m : Int)) (by omega)
  unfold invMod
  omega

/-- `inv(a, m)` is an inverse when a and m are coprime (00_scope.md R12). -/
theorem invMod_mul {a m : Nat} (hm : 0 < m) (hg : Nat.gcd a m = 1) : a * invMod a m % m = 1 % m := by
  obtain ⟨hr, hb, -⟩ := xgcd_spec (a % m) m
  have hg' : Nat.gcd (a % m) m = 1 := by rw [← hg, Nat.gcd_comm a m, Nat.gcd_rec m a]
  rw [hr, hg'] at hb
  have hnn := Int.emod_nonneg (xgcd (a % m) m).s0 (b := (m : Int)) (by omega)
  have hcast : ((invMod a m : Nat) : Int) = (xgcd (a % m) m).s0 % m := by
    unfold invMod; exact Int.toNat_of_nonneg hnn
  have key : ((a * invMod a m : Nat) : Int) ≡ 1 [ZMOD (m : Int)] := by
    push_cast
    rw [hcast]
    have e1 : (a : Int) * ((xgcd (a % m) m).s0 % m) ≡ ((a % m : Nat) : Int) * (xgcd (a % m) m).s0 [ZMOD m] := by
      refine Int.ModEq.mul ?_ (Int.mod_modEq _ _)
      push_cast
      exact (Int.mod_modEq _ _).symm
    refine e1.trans ?_
    have e2 : ((a % m : Nat) : Int) * (xgcd (a % m) m).s0 = 1 - m * (xgcd (a % m) m).t0 := by
      have : ((1 : Nat) : Int) = 1 := rfl
      omega
    rw [e2]
    exact (Int.modEq_iff_dvd.2 ⟨(xgcd (a % m) m).t0, by ring⟩)
  exact (Int.natCast_modEq_iff.1 (by exact_mod_cast key))

/-- An odd number is coprime to a power of two. -/
theorem gcd_two_pow_of_odd {n : Nat} (h : n % 2 = 1) (k : Nat) : Nat.gcd (2 ^ k) n = 1 := by
  have h2 : Nat.Coprime 2 n := by
    rw [Nat.coprime_two_left]
    exact Nat.odd_iff.2 h
  exact h2.pow_left k

/-- `Rinv` is an inverse of R modulo an odd N (00_scope.md R17). -/
theorem rInv_mul {n : Nat} (h : n % 2 = 1) (k : Nat) : 2 ^ k * rInv (2 ^ k) n % n = 1 % n := by
  have hn : 0 < n := by omega
  have hg : Nat.gcd (2 ^ k % n) n = 1 := by
    rw [Nat.gcd_comm, Nat.gcd_comm n, ← Nat.gcd_rec, Nat.gcd_comm]; exact gcd_two_pow_of_odd h k
  have := invMod_mul hn hg
  rw [Nat.mul_mod, Nat.mod_mod, ← Nat.mul_mod] at this
  exact this

/-- `N·NPRIME ≡ −1 (mod R)` for an odd N (00_scope.md R17). -/
theorem nPrimeOf_mul {n : Nat} (h : n % 2 = 1) (k : Nat) (hk : 0 < k) :
    (n * nPrimeOf (2 ^ k) n + 1) % 2 ^ k = 0 := by
  have hR : 0 < 2 ^ k := Nat.pow_pos (by decide)
  have hg : Nat.gcd n (2 ^ k) = 1 := by rw [Nat.gcd_comm]; exact gcd_two_pow_of_odd h k
  have hinv := invMod_mul hR hg
  have hlt := invMod_lt n hR
  have h1 : (1 : Nat) % 2 ^ k = 1 := Nat.mod_eq_of_lt (Nat.one_lt_two_pow (by omega))
  rw [h1] at hinv
  unfold nPrimeOf
  have e : (n * ((2 ^ k - invMod n (2 ^ k)) % 2 ^ k) + 1) % 2 ^ k
      = (n * (2 ^ k - invMod n (2 ^ k)) + n * invMod n (2 ^ k)) % 2 ^ k := by
    rw [Nat.add_mod, Nat.mul_mod, Nat.mod_mod, ← Nat.mul_mod, Nat.add_mod (n * _) (n * invMod n (2 ^ k)), hinv, h1]
  rw [e, ← Nat.mul_add, Nat.sub_add_cancel hlt.le, Nat.mul_mod_left]

/-- NPRIME is a W-bit value. -/
theorem nPrimeOf_lt (n : Nat) {radix : Nat} (h : 0 < radix) : nPrimeOf radix n < radix := Nat.mod_lt _ h

/-- A two's-complement image is a W-bit value (00_scope.md R11). -/
theorem twos_lt (width : Nat) (v : Int) : twos width v < 2 ^ width := by
  have hp : 0 < 2 ^ width := Nat.pow_pos (by decide)
  have h1 := Int.emod_nonneg v (b := ((2 ^ width : Nat) : Int)) (by omega)
  have h2 := Int.emod_lt_of_pos v (b := ((2 ^ width : Nat) : Int)) (by omega)
  unfold twos
  omega

/-! ### Powers of two in a number -/

/-- `v = 2^s · d` with `d` odd (44_prime.md R160). -/
theorem twoPart_spec : ∀ fuel v, 0 < v → v < 2 ^ fuel →
    2 ^ twoPart fuel v * (v / 2 ^ twoPart fuel v) = v ∧ (v / 2 ^ twoPart fuel v) % 2 = 1 := by
  intro fuel
  induction fuel with
  | zero => intro v h0 h1; simp at h1; omega
  | succ k ih =>
    intro v h0 h1
    rw [twoPart]
    split
    · rename_i h2
      have hv : v / 2 < 2 ^ k := by rw [pow_succ] at h1; omega
      obtain ⟨e1, e2⟩ := ih (v / 2) (by omega) hv
      have hd : v / 2 ^ (twoPart k (v / 2) + 1) = v / 2 / 2 ^ twoPart k (v / 2) := by
        rw [pow_succ, mul_comm, Nat.div_div_eq_div_mul]
      refine ⟨?_, by rw [hd]; exact e2⟩
      rw [hd, pow_succ, mul_comm (2 ^ _) 2, mul_assoc, e1]; omega
    · rename_i h2; simp; omega

end Sys2Proof.Laws
end

