-- ==== Sys2Proof/Laws/State.lean ====
section
/-!
SUPPORT. One lemma per field per update of the state, so that no later proof unfolds a record update; and the operand
register and width views of each update.
-/

namespace Sys2Proof.Laws

open Sys2Proof.Machine

/-! ### `State.setX` -/

@[simp] theorem setX_nwIndex (s : State) (i : Reg) (v : Nat) : (s.setX i v).nwIndex = s.nwIndex := rfl
@[simp] theorem setX_regs (s : State) (i : Reg) (v : Nat) : (s.setX i v).regs = s.regs.set i.val v := rfl
@[simp] theorem setX_modulus (s : State) (i : Reg) (v : Nat) : (s.setX i v).modulus = s.modulus := rfl
@[simp] theorem setX_nprime (s : State) (i : Reg) (v : Nat) : (s.setX i v).nprime = s.nprime := rfl
@[simp] theorem setX_r2 (s : State) (i : Reg) (v : Nat) : (s.setX i v).r2 = s.r2 := rfl
@[simp] theorem setX_modv (s : State) (i : Reg) (v : Nat) : (s.setX i v).modv = s.modv := rfl
@[simp] theorem setX_done (s : State) (i : Reg) (v : Nat) : (s.setX i v).done = s.done := rfl
@[simp] theorem setX_err (s : State) (i : Reg) (v : Nat) : (s.setX i v).err = s.err := rfl
@[simp] theorem setX_ecode (s : State) (i : Reg) (v : Nat) : (s.setX i v).ecode = s.ecode := rfl
@[simp] theorem setX_errinfo (s : State) (i : Reg) (v : Nat) : (s.setX i v).errinfo = s.errinfo := rfl
@[simp] theorem setX_ie (s : State) (i : Reg) (v : Nat) : (s.setX i v).ie = s.ie := rfl
@[simp] theorem setX_eie (s : State) (i : Reg) (v : Nat) : (s.setX i v).eie = s.eie := rfl
@[simp] theorem setX_inflight (s : State) (i : Reg) (v : Nat) : (s.setX i v).inflight = s.inflight := rfl
@[simp] theorem setX_readLog (s : State) (i : Reg) (v : Nat) : (s.setX i v).readLog = s.readLog := rfl
@[simp] theorem setX_inputs (s : State) (i : Reg) (v : Nat) : (s.setX i v).inputs = s.inputs := rfl
@[simp] theorem setX_nw (s : State) (i : Reg) (v : Nat) : (s.setX i v).nw = s.nw := rfl
@[simp] theorem setX_width (s : State) (i : Reg) (v : Nat) : (s.setX i v).width = s.width := rfl
@[simp] theorem setX_radix (s : State) (i : Reg) (v : Nat) : (s.setX i v).radix = s.radix := rfl
@[simp] theorem setX_busy (s : State) (i : Reg) (v : Nat) : (s.setX i v).busy = s.busy := rfl
@[simp] theorem setX_commandWord (s : State) (i : Reg) (v : Nat) (q : Instr) : (s.setX i v).commandWord q = s.commandWord q := rfl

/-! ### `State.loadModulus` -/

@[simp] theorem loadModulus_nwIndex (s : State) (v : Nat) : (s.loadModulus v).nwIndex = s.nwIndex := rfl
@[simp] theorem loadModulus_regs (s : State) (v : Nat) : (s.loadModulus v).regs = s.regs := rfl
@[simp] theorem loadModulus_modulus (s : State) (v : Nat) : (s.loadModulus v).modulus = v := rfl
@[simp] theorem loadModulus_nprime (s : State) (v : Nat) : (s.loadModulus v).nprime = nPrimeOf s.radix v := rfl
@[simp] theorem loadModulus_r2 (s : State) (v : Nat) : (s.loadModulus v).r2 = r2Of s.radix v := rfl
@[simp] theorem loadModulus_modv (s : State) (v : Nat) : (s.loadModulus v).modv = true := rfl
@[simp] theorem loadModulus_done (s : State) (v : Nat) : (s.loadModulus v).done = s.done := rfl
@[simp] theorem loadModulus_err (s : State) (v : Nat) : (s.loadModulus v).err = s.err := rfl
@[simp] theorem loadModulus_ecode (s : State) (v : Nat) : (s.loadModulus v).ecode = s.ecode := rfl
@[simp] theorem loadModulus_errinfo (s : State) (v : Nat) : (s.loadModulus v).errinfo = s.errinfo := rfl
@[simp] theorem loadModulus_ie (s : State) (v : Nat) : (s.loadModulus v).ie = s.ie := rfl
@[simp] theorem loadModulus_eie (s : State) (v : Nat) : (s.loadModulus v).eie = s.eie := rfl
@[simp] theorem loadModulus_inflight (s : State) (v : Nat) : (s.loadModulus v).inflight = s.inflight := rfl
@[simp] theorem loadModulus_readLog (s : State) (v : Nat) : (s.loadModulus v).readLog = s.readLog := rfl
@[simp] theorem loadModulus_inputs (s : State) (v : Nat) : (s.loadModulus v).inputs = s.inputs := rfl
@[simp] theorem loadModulus_nw (s : State) (v : Nat) : (s.loadModulus v).nw = s.nw := rfl
@[simp] theorem loadModulus_width (s : State) (v : Nat) : (s.loadModulus v).width = s.width := rfl
@[simp] theorem loadModulus_radix (s : State) (v : Nat) : (s.loadModulus v).radix = s.radix := rfl
@[simp] theorem loadModulus_x (s : State) (v : Nat) (k : Reg) : (s.loadModulus v).x k = s.x k := rfl
@[simp] theorem loadModulus_busy (s : State) (v : Nat) : (s.loadModulus v).busy = s.busy := rfl
@[simp] theorem loadModulus_commandWord (s : State) (v : Nat) (q : Instr) : (s.loadModulus v).commandWord q = s.commandWord q := rfl

/-! ### `State.dropModulus` -/

@[simp] theorem dropModulus_nwIndex (s : State) : (s.dropModulus).nwIndex = s.nwIndex := rfl
@[simp] theorem dropModulus_regs (s : State) : (s.dropModulus).regs = s.regs := rfl
@[simp] theorem dropModulus_modulus (s : State) : (s.dropModulus).modulus = s.modulus := rfl
@[simp] theorem dropModulus_nprime (s : State) : (s.dropModulus).nprime = s.nprime := rfl
@[simp] theorem dropModulus_r2 (s : State) : (s.dropModulus).r2 = s.r2 := rfl
@[simp] theorem dropModulus_modv (s : State) : (s.dropModulus).modv = false := rfl
@[simp] theorem dropModulus_done (s : State) : (s.dropModulus).done = s.done := rfl
@[simp] theorem dropModulus_err (s : State) : (s.dropModulus).err = s.err := rfl
@[simp] theorem dropModulus_ecode (s : State) : (s.dropModulus).ecode = s.ecode := rfl
@[simp] theorem dropModulus_errinfo (s : State) : (s.dropModulus).errinfo = s.errinfo := rfl
@[simp] theorem dropModulus_ie (s : State) : (s.dropModulus).ie = s.ie := rfl
@[simp] theorem dropModulus_eie (s : State) : (s.dropModulus).eie = s.eie := rfl
@[simp] theorem dropModulus_inflight (s : State) : (s.dropModulus).inflight = s.inflight := rfl
@[simp] theorem dropModulus_readLog (s : State) : (s.dropModulus).readLog = s.readLog := rfl
@[simp] theorem dropModulus_inputs (s : State) : (s.dropModulus).inputs = s.inputs := rfl
@[simp] theorem dropModulus_nw (s : State) : (s.dropModulus).nw = s.nw := rfl
@[simp] theorem dropModulus_width (s : State) : (s.dropModulus).width = s.width := rfl
@[simp] theorem dropModulus_radix (s : State) : (s.dropModulus).radix = s.radix := rfl
@[simp] theorem dropModulus_x (s : State) (k : Reg) : (s.dropModulus).x k = s.x k := rfl
@[simp] theorem dropModulus_busy (s : State) : (s.dropModulus).busy = s.busy := rfl
@[simp] theorem dropModulus_commandWord (s : State) (q : Instr) : (s.dropModulus).commandWord q = s.commandWord q := rfl

/-! ### `State.clearError` -/

@[simp] theorem clearError_nwIndex (s : State) : (s.clearError).nwIndex = s.nwIndex := rfl
@[simp] theorem clearError_regs (s : State) : (s.clearError).regs = s.regs := rfl
@[simp] theorem clearError_modulus (s : State) : (s.clearError).modulus = s.modulus := rfl
@[simp] theorem clearError_nprime (s : State) : (s.clearError).nprime = s.nprime := rfl
@[simp] theorem clearError_r2 (s : State) : (s.clearError).r2 = s.r2 := rfl
@[simp] theorem clearError_modv (s : State) : (s.clearError).modv = s.modv := rfl
@[simp] theorem clearError_done (s : State) : (s.clearError).done = s.done := rfl
@[simp] theorem clearError_err (s : State) : (s.clearError).err = false := rfl
@[simp] theorem clearError_ecode (s : State) : (s.clearError).ecode = .none := rfl
@[simp] theorem clearError_errinfo (s : State) : (s.clearError).errinfo = 0 := rfl
@[simp] theorem clearError_ie (s : State) : (s.clearError).ie = s.ie := rfl
@[simp] theorem clearError_eie (s : State) : (s.clearError).eie = s.eie := rfl
@[simp] theorem clearError_inflight (s : State) : (s.clearError).inflight = s.inflight := rfl
@[simp] theorem clearError_readLog (s : State) : (s.clearError).readLog = s.readLog := rfl
@[simp] theorem clearError_inputs (s : State) : (s.clearError).inputs = s.inputs := rfl
@[simp] theorem clearError_nw (s : State) : (s.clearError).nw = s.nw := rfl
@[simp] theorem clearError_width (s : State) : (s.clearError).width = s.width := rfl
@[simp] theorem clearError_radix (s : State) : (s.clearError).radix = s.radix := rfl
@[simp] theorem clearError_x (s : State) (k : Reg) : (s.clearError).x k = s.x k := rfl
@[simp] theorem clearError_busy (s : State) : (s.clearError).busy = s.busy := rfl
@[simp] theorem clearError_commandWord (s : State) (q : Instr) : (s.clearError).commandWord q = s.commandWord q := rfl

/-! ### `State.clearDone` -/

@[simp] theorem clearDone_nwIndex (s : State) : (s.clearDone).nwIndex = s.nwIndex := rfl
@[simp] theorem clearDone_regs (s : State) : (s.clearDone).regs = s.regs := rfl
@[simp] theorem clearDone_modulus (s : State) : (s.clearDone).modulus = s.modulus := rfl
@[simp] theorem clearDone_nprime (s : State) : (s.clearDone).nprime = s.nprime := rfl
@[simp] theorem clearDone_r2 (s : State) : (s.clearDone).r2 = s.r2 := rfl
@[simp] theorem clearDone_modv (s : State) : (s.clearDone).modv = s.modv := rfl
@[simp] theorem clearDone_done (s : State) : (s.clearDone).done = false := rfl
@[simp] theorem clearDone_err (s : State) : (s.clearDone).err = s.err := rfl
@[simp] theorem clearDone_ecode (s : State) : (s.clearDone).ecode = s.ecode := rfl
@[simp] theorem clearDone_errinfo (s : State) : (s.clearDone).errinfo = s.errinfo := rfl
@[simp] theorem clearDone_ie (s : State) : (s.clearDone).ie = s.ie := rfl
@[simp] theorem clearDone_eie (s : State) : (s.clearDone).eie = s.eie := rfl
@[simp] theorem clearDone_inflight (s : State) : (s.clearDone).inflight = s.inflight := rfl
@[simp] theorem clearDone_readLog (s : State) : (s.clearDone).readLog = s.readLog := rfl
@[simp] theorem clearDone_inputs (s : State) : (s.clearDone).inputs = s.inputs := rfl
@[simp] theorem clearDone_nw (s : State) : (s.clearDone).nw = s.nw := rfl
@[simp] theorem clearDone_width (s : State) : (s.clearDone).width = s.width := rfl
@[simp] theorem clearDone_radix (s : State) : (s.clearDone).radix = s.radix := rfl
@[simp] theorem clearDone_x (s : State) (k : Reg) : (s.clearDone).x k = s.x k := rfl
@[simp] theorem clearDone_busy (s : State) : (s.clearDone).busy = s.busy := rfl
@[simp] theorem clearDone_commandWord (s : State) (q : Instr) : (s.clearDone).commandWord q = s.commandWord q := rfl

/-! ### `State.issue` -/

@[simp] theorem issue_nwIndex (s : State) (c : Word) : (s.issue c).nwIndex = s.nwIndex := rfl
@[simp] theorem issue_regs (s : State) (c : Word) : (s.issue c).regs = s.regs := rfl
@[simp] theorem issue_modulus (s : State) (c : Word) : (s.issue c).modulus = s.modulus := rfl
@[simp] theorem issue_nprime (s : State) (c : Word) : (s.issue c).nprime = s.nprime := rfl
@[simp] theorem issue_r2 (s : State) (c : Word) : (s.issue c).r2 = s.r2 := rfl
@[simp] theorem issue_modv (s : State) (c : Word) : (s.issue c).modv = s.modv := rfl
@[simp] theorem issue_done (s : State) (c : Word) : (s.issue c).done = false := rfl
@[simp] theorem issue_err (s : State) (c : Word) : (s.issue c).err = s.err := rfl
@[simp] theorem issue_ecode (s : State) (c : Word) : (s.issue c).ecode = s.ecode := rfl
@[simp] theorem issue_errinfo (s : State) (c : Word) : (s.issue c).errinfo = s.errinfo := rfl
@[simp] theorem issue_ie (s : State) (c : Word) : (s.issue c).ie = s.ie := rfl
@[simp] theorem issue_eie (s : State) (c : Word) : (s.issue c).eie = s.eie := rfl
@[simp] theorem issue_inflight (s : State) (c : Word) : (s.issue c).inflight = some c := rfl
@[simp] theorem issue_readLog (s : State) (c : Word) : (s.issue c).readLog = s.readLog := rfl
@[simp] theorem issue_inputs (s : State) (c : Word) : (s.issue c).inputs = s.inputs := rfl
@[simp] theorem issue_nw (s : State) (c : Word) : (s.issue c).nw = s.nw := rfl
@[simp] theorem issue_width (s : State) (c : Word) : (s.issue c).width = s.width := rfl
@[simp] theorem issue_radix (s : State) (c : Word) : (s.issue c).radix = s.radix := rfl
@[simp] theorem issue_x (s : State) (c : Word) (k : Reg) : (s.issue c).x k = s.x k := rfl
@[simp] theorem issue_busy (s : State) (c : Word) : (s.issue c).busy = true := rfl

/-! ### `State.retire` -/

@[simp] theorem retire_nwIndex (s : State) : (s.retire).nwIndex = s.nwIndex := rfl
@[simp] theorem retire_regs (s : State) : (s.retire).regs = s.regs := rfl
@[simp] theorem retire_modulus (s : State) : (s.retire).modulus = s.modulus := rfl
@[simp] theorem retire_nprime (s : State) : (s.retire).nprime = s.nprime := rfl
@[simp] theorem retire_r2 (s : State) : (s.retire).r2 = s.r2 := rfl
@[simp] theorem retire_modv (s : State) : (s.retire).modv = s.modv := rfl
@[simp] theorem retire_done (s : State) : (s.retire).done = true := rfl
@[simp] theorem retire_err (s : State) : (s.retire).err = s.err := rfl
@[simp] theorem retire_ecode (s : State) : (s.retire).ecode = s.ecode := rfl
@[simp] theorem retire_errinfo (s : State) : (s.retire).errinfo = s.errinfo := rfl
@[simp] theorem retire_ie (s : State) : (s.retire).ie = s.ie := rfl
@[simp] theorem retire_eie (s : State) : (s.retire).eie = s.eie := rfl
@[simp] theorem retire_inflight (s : State) : (s.retire).inflight = none := rfl
@[simp] theorem retire_readLog (s : State) : (s.retire).readLog = s.readLog := rfl
@[simp] theorem retire_inputs (s : State) : (s.retire).inputs = s.inputs := rfl
@[simp] theorem retire_nw (s : State) : (s.retire).nw = s.nw := rfl
@[simp] theorem retire_width (s : State) : (s.retire).width = s.width := rfl
@[simp] theorem retire_radix (s : State) : (s.retire).radix = s.radix := rfl
@[simp] theorem retire_x (s : State) (k : Reg) : (s.retire).x k = s.x k := rfl
@[simp] theorem retire_busy (s : State) : (s.retire).busy = false := rfl

/-! ### `State.writeCtrl` -/

@[simp] theorem writeCtrl_nwIndex (s : State) (v : Word) : (s.writeCtrl v).nwIndex = s.nwIndex := rfl
@[simp] theorem writeCtrl_regs (s : State) (v : Word) : (s.writeCtrl v).regs = s.regs := rfl
@[simp] theorem writeCtrl_modulus (s : State) (v : Word) : (s.writeCtrl v).modulus = s.modulus := rfl
@[simp] theorem writeCtrl_nprime (s : State) (v : Word) : (s.writeCtrl v).nprime = s.nprime := rfl
@[simp] theorem writeCtrl_r2 (s : State) (v : Word) : (s.writeCtrl v).r2 = s.r2 := rfl
@[simp] theorem writeCtrl_modv (s : State) (v : Word) : (s.writeCtrl v).modv = s.modv := rfl
@[simp] theorem writeCtrl_done (s : State) (v : Word) : (s.writeCtrl v).done = s.done := rfl
@[simp] theorem writeCtrl_err (s : State) (v : Word) : (s.writeCtrl v).err = s.err := rfl
@[simp] theorem writeCtrl_ecode (s : State) (v : Word) : (s.writeCtrl v).ecode = s.ecode := rfl
@[simp] theorem writeCtrl_errinfo (s : State) (v : Word) : (s.writeCtrl v).errinfo = s.errinfo := rfl
@[simp] theorem writeCtrl_ie (s : State) (v : Word) : (s.writeCtrl v).ie = v.getLsbD 0 := rfl
@[simp] theorem writeCtrl_eie (s : State) (v : Word) : (s.writeCtrl v).eie = v.getLsbD 1 := rfl
@[simp] theorem writeCtrl_inflight (s : State) (v : Word) : (s.writeCtrl v).inflight = s.inflight := rfl
@[simp] theorem writeCtrl_readLog (s : State) (v : Word) : (s.writeCtrl v).readLog = s.readLog := rfl
@[simp] theorem writeCtrl_inputs (s : State) (v : Word) : (s.writeCtrl v).inputs = s.inputs := rfl
@[simp] theorem writeCtrl_nw (s : State) (v : Word) : (s.writeCtrl v).nw = s.nw := rfl
@[simp] theorem writeCtrl_width (s : State) (v : Word) : (s.writeCtrl v).width = s.width := rfl
@[simp] theorem writeCtrl_radix (s : State) (v : Word) : (s.writeCtrl v).radix = s.radix := rfl
@[simp] theorem writeCtrl_x (s : State) (v : Word) (k : Reg) : (s.writeCtrl v).x k = s.x k := rfl
@[simp] theorem writeCtrl_busy (s : State) (v : Word) : (s.writeCtrl v).busy = s.busy := rfl
@[simp] theorem writeCtrl_commandWord (s : State) (v : Word) (q : Instr) : (s.writeCtrl v).commandWord q = s.commandWord q := rfl

/-! ### `State.logRead` -/

@[simp] theorem logRead_nwIndex (s : State) (a : Addr) : (s.logRead a).nwIndex = s.nwIndex := rfl
@[simp] theorem logRead_regs (s : State) (a : Addr) : (s.logRead a).regs = s.regs := rfl
@[simp] theorem logRead_modulus (s : State) (a : Addr) : (s.logRead a).modulus = s.modulus := rfl
@[simp] theorem logRead_nprime (s : State) (a : Addr) : (s.logRead a).nprime = s.nprime := rfl
@[simp] theorem logRead_r2 (s : State) (a : Addr) : (s.logRead a).r2 = s.r2 := rfl
@[simp] theorem logRead_modv (s : State) (a : Addr) : (s.logRead a).modv = s.modv := rfl
@[simp] theorem logRead_done (s : State) (a : Addr) : (s.logRead a).done = s.done := rfl
@[simp] theorem logRead_err (s : State) (a : Addr) : (s.logRead a).err = s.err := rfl
@[simp] theorem logRead_ecode (s : State) (a : Addr) : (s.logRead a).ecode = s.ecode := rfl
@[simp] theorem logRead_errinfo (s : State) (a : Addr) : (s.logRead a).errinfo = s.errinfo := rfl
@[simp] theorem logRead_ie (s : State) (a : Addr) : (s.logRead a).ie = s.ie := rfl
@[simp] theorem logRead_eie (s : State) (a : Addr) : (s.logRead a).eie = s.eie := rfl
@[simp] theorem logRead_inflight (s : State) (a : Addr) : (s.logRead a).inflight = s.inflight := rfl
@[simp] theorem logRead_readLog (s : State) (a : Addr) : (s.logRead a).readLog = s.busRead a :: s.readLog := rfl
@[simp] theorem logRead_inputs (s : State) (a : Addr) : (s.logRead a).inputs = s.inputs := rfl
@[simp] theorem logRead_nw (s : State) (a : Addr) : (s.logRead a).nw = s.nw := rfl
@[simp] theorem logRead_width (s : State) (a : Addr) : (s.logRead a).width = s.width := rfl
@[simp] theorem logRead_radix (s : State) (a : Addr) : (s.logRead a).radix = s.radix := rfl
@[simp] theorem logRead_x (s : State) (a : Addr) (k : Reg) : (s.logRead a).x k = s.x k := rfl
@[simp] theorem logRead_busy (s : State) (a : Addr) : (s.logRead a).busy = s.busy := rfl
@[simp] theorem logRead_commandWord (s : State) (a : Addr) (q : Instr) : (s.logRead a).commandWord q = s.commandWord q := rfl

/-! ### `State.resetEvent` -/

@[simp] theorem resetEvent_nwIndex (s : State) : (s.resetEvent).nwIndex = s.nwIndex := rfl
@[simp] theorem resetEvent_regs (s : State) : (s.resetEvent).regs = Vector.replicate 8 0 := rfl
@[simp] theorem resetEvent_modulus (s : State) : (s.resetEvent).modulus = 0 := rfl
@[simp] theorem resetEvent_nprime (s : State) : (s.resetEvent).nprime = 0 := rfl
@[simp] theorem resetEvent_r2 (s : State) : (s.resetEvent).r2 = 0 := rfl
@[simp] theorem resetEvent_modv (s : State) : (s.resetEvent).modv = false := rfl
@[simp] theorem resetEvent_done (s : State) : (s.resetEvent).done = false := rfl
@[simp] theorem resetEvent_err (s : State) : (s.resetEvent).err = false := rfl
@[simp] theorem resetEvent_ecode (s : State) : (s.resetEvent).ecode = .none := rfl
@[simp] theorem resetEvent_errinfo (s : State) : (s.resetEvent).errinfo = 0 := rfl
@[simp] theorem resetEvent_ie (s : State) : (s.resetEvent).ie = false := rfl
@[simp] theorem resetEvent_eie (s : State) : (s.resetEvent).eie = false := rfl
@[simp] theorem resetEvent_inflight (s : State) : (s.resetEvent).inflight = none := rfl
@[simp] theorem resetEvent_readLog (s : State) : (s.resetEvent).readLog = s.readLog := rfl
@[simp] theorem resetEvent_inputs (s : State) : (s.resetEvent).inputs = s.inputs := rfl
@[simp] theorem resetEvent_nw (s : State) : (s.resetEvent).nw = s.nw := rfl
@[simp] theorem resetEvent_width (s : State) : (s.resetEvent).width = s.width := rfl
@[simp] theorem resetEvent_radix (s : State) : (s.resetEvent).radix = s.radix := rfl
@[simp] theorem resetEvent_busy (s : State) : (s.resetEvent).busy = false := rfl

/-! ### `State.placeCommand` -/

@[simp] theorem placeCommand_nwIndex (s : State) (c : Word) : (s.placeCommand c).nwIndex = s.nwIndex := rfl
@[simp] theorem placeCommand_regs (s : State) (c : Word) : (s.placeCommand c).regs = s.regs := rfl
@[simp] theorem placeCommand_modulus (s : State) (c : Word) : (s.placeCommand c).modulus = s.modulus := rfl
@[simp] theorem placeCommand_nprime (s : State) (c : Word) : (s.placeCommand c).nprime = s.nprime := rfl
@[simp] theorem placeCommand_r2 (s : State) (c : Word) : (s.placeCommand c).r2 = s.r2 := rfl
@[simp] theorem placeCommand_modv (s : State) (c : Word) : (s.placeCommand c).modv = s.modv := rfl
@[simp] theorem placeCommand_done (s : State) (c : Word) : (s.placeCommand c).done = false := rfl
@[simp] theorem placeCommand_err (s : State) (c : Word) : (s.placeCommand c).err = s.err := rfl
@[simp] theorem placeCommand_ecode (s : State) (c : Word) : (s.placeCommand c).ecode = s.ecode := rfl
@[simp] theorem placeCommand_errinfo (s : State) (c : Word) : (s.placeCommand c).errinfo = s.errinfo := rfl
@[simp] theorem placeCommand_ie (s : State) (c : Word) : (s.placeCommand c).ie = s.ie := rfl
@[simp] theorem placeCommand_eie (s : State) (c : Word) : (s.placeCommand c).eie = s.eie := rfl
@[simp] theorem placeCommand_inflight (s : State) (c : Word) : (s.placeCommand c).inflight = some c := rfl
@[simp] theorem placeCommand_readLog (s : State) (c : Word) : (s.placeCommand c).readLog = s.readLog := rfl
@[simp] theorem placeCommand_inputs (s : State) (c : Word) : (s.placeCommand c).inputs = completionFirst s.inputs := rfl
@[simp] theorem placeCommand_nw (s : State) (c : Word) : (s.placeCommand c).nw = s.nw := rfl
@[simp] theorem placeCommand_width (s : State) (c : Word) : (s.placeCommand c).width = s.width := rfl
@[simp] theorem placeCommand_radix (s : State) (c : Word) : (s.placeCommand c).radix = s.radix := rfl
@[simp] theorem placeCommand_x (s : State) (c : Word) (k : Reg) : (s.placeCommand c).x k = s.x k := rfl
@[simp] theorem placeCommand_busy (s : State) (c : Word) : (s.placeCommand c).busy = true := rfl

/-! ### Operand registers -/

/-- Reading the register just written. -/
@[simp] theorem setX_x_self (s : State) (i : Reg) (v : Nat) : (s.setX i v).x i = v := by
  simp [State.setX, State.x]

/-- Reading another register than the one written. -/
theorem setX_x_ne (s : State) {i k : Reg} (v : Nat) (h : k ≠ i) : (s.setX i v).x k = s.x k := by
  have h' : i.val ≠ k.val := fun e => h (Fin.ext e.symm)
  simp [State.setX, State.x, h']

/-- What any register reads after a write. -/
theorem setX_x (s : State) (i k : Reg) (v : Nat) : (s.setX i v).x k = if k = i then v else s.x k := by
  by_cases h : k = i
  · subst h; simp
  · simp [h, setX_x_ne s v h]

/-- After the reset event every operand register is 0. -/
@[simp] theorem resetEvent_x (s : State) (k : Reg) : s.resetEvent.x k = 0 := by
  simp [State.resetEvent, State.x, State.resetOf]

/-! ### `State.recordError`: the error record, and nothing else -/

@[simp] theorem recordError_nwIndex (s : State) (e : ErrCode) (w : Word) : (s.recordError e w).nwIndex = s.nwIndex := by
  unfold State.recordError; split <;> rfl
@[simp] theorem recordError_regs (s : State) (e : ErrCode) (w : Word) : (s.recordError e w).regs = s.regs := by
  unfold State.recordError; split <;> rfl
@[simp] theorem recordError_modulus (s : State) (e : ErrCode) (w : Word) : (s.recordError e w).modulus = s.modulus := by
  unfold State.recordError; split <;> rfl
@[simp] theorem recordError_nprime (s : State) (e : ErrCode) (w : Word) : (s.recordError e w).nprime = s.nprime := by
  unfold State.recordError; split <;> rfl
@[simp] theorem recordError_r2 (s : State) (e : ErrCode) (w : Word) : (s.recordError e w).r2 = s.r2 := by
  unfold State.recordError; split <;> rfl
@[simp] theorem recordError_modv (s : State) (e : ErrCode) (w : Word) : (s.recordError e w).modv = s.modv := by
  unfold State.recordError; split <;> rfl
@[simp] theorem recordError_done (s : State) (e : ErrCode) (w : Word) : (s.recordError e w).done = s.done := by
  unfold State.recordError; split <;> rfl
@[simp] theorem recordError_ie (s : State) (e : ErrCode) (w : Word) : (s.recordError e w).ie = s.ie := by
  unfold State.recordError; split <;> rfl
@[simp] theorem recordError_eie (s : State) (e : ErrCode) (w : Word) : (s.recordError e w).eie = s.eie := by
  unfold State.recordError; split <;> rfl
@[simp] theorem recordError_inflight (s : State) (e : ErrCode) (w : Word) : (s.recordError e w).inflight = s.inflight := by
  unfold State.recordError; split <;> rfl
@[simp] theorem recordError_readLog (s : State) (e : ErrCode) (w : Word) : (s.recordError e w).readLog = s.readLog := by
  unfold State.recordError; split <;> rfl
@[simp] theorem recordError_inputs (s : State) (e : ErrCode) (w : Word) : (s.recordError e w).inputs = s.inputs := by
  unfold State.recordError; split <;> rfl
@[simp] theorem recordError_nw (s : State) (e : ErrCode) (w : Word) : (s.recordError e w).nw = s.nw := by
  unfold State.recordError; split <;> rfl
@[simp] theorem recordError_width (s : State) (e : ErrCode) (w : Word) : (s.recordError e w).width = s.width := by
  unfold State.recordError; split <;> rfl
@[simp] theorem recordError_radix (s : State) (e : ErrCode) (w : Word) : (s.recordError e w).radix = s.radix := by
  unfold State.recordError; split <;> rfl
@[simp] theorem recordError_busy (s : State) (e : ErrCode) (w : Word) : (s.recordError e w).busy = s.busy := by
  unfold State.recordError; split <;> rfl
@[simp] theorem recordError_x (s : State) (e : ErrCode) (w : Word) (k : Reg) : (s.recordError e w).x k = s.x k := by
  unfold State.recordError; split <;> rfl
@[simp] theorem recordError_err (s : State) (e : ErrCode) (w : Word) : (s.recordError e w).err = true := by
  unfold State.recordError; split <;> simp_all
theorem recordError_ecode (s : State) (e : ErrCode) (w : Word) :
    (s.recordError e w).ecode = if s.err then s.ecode else e := by
  unfold State.recordError; split <;> rfl
theorem recordError_errinfo (s : State) (e : ErrCode) (w : Word) :
    (s.recordError e w).errinfo = if s.err then s.errinfo else w := by
  unfold State.recordError; split <;> rfl

/-! ### `State.writeStatus`: DONE and the error record, and nothing else -/

@[simp] theorem writeStatus_nwIndex (s : State) (v : Word) : (s.writeStatus v).nwIndex = s.nwIndex := by
  simp only [State.writeStatus]; split <;> split <;> rfl
@[simp] theorem writeStatus_regs (s : State) (v : Word) : (s.writeStatus v).regs = s.regs := by
  simp only [State.writeStatus]; split <;> split <;> rfl
@[simp] theorem writeStatus_modulus (s : State) (v : Word) : (s.writeStatus v).modulus = s.modulus := by
  simp only [State.writeStatus]; split <;> split <;> rfl
@[simp] theorem writeStatus_nprime (s : State) (v : Word) : (s.writeStatus v).nprime = s.nprime := by
  simp only [State.writeStatus]; split <;> split <;> rfl
@[simp] theorem writeStatus_r2 (s : State) (v : Word) : (s.writeStatus v).r2 = s.r2 := by
  simp only [State.writeStatus]; split <;> split <;> rfl
@[simp] theorem writeStatus_modv (s : State) (v : Word) : (s.writeStatus v).modv = s.modv := by
  simp only [State.writeStatus]; split <;> split <;> rfl
@[simp] theorem writeStatus_ie (s : State) (v : Word) : (s.writeStatus v).ie = s.ie := by
  simp only [State.writeStatus]; split <;> split <;> rfl
@[simp] theorem writeStatus_eie (s : State) (v : Word) : (s.writeStatus v).eie = s.eie := by
  simp only [State.writeStatus]; split <;> split <;> rfl
@[simp] theorem writeStatus_inflight (s : State) (v : Word) : (s.writeStatus v).inflight = s.inflight := by
  simp only [State.writeStatus]; split <;> split <;> rfl
@[simp] theorem writeStatus_readLog (s : State) (v : Word) : (s.writeStatus v).readLog = s.readLog := by
  simp only [State.writeStatus]; split <;> split <;> rfl
@[simp] theorem writeStatus_inputs (s : State) (v : Word) : (s.writeStatus v).inputs = s.inputs := by
  simp only [State.writeStatus]; split <;> split <;> rfl
@[simp] theorem writeStatus_nw (s : State) (v : Word) : (s.writeStatus v).nw = s.nw := by
  simp only [State.writeStatus]; split <;> split <;> rfl
@[simp] theorem writeStatus_width (s : State) (v : Word) : (s.writeStatus v).width = s.width := by
  simp only [State.writeStatus]; split <;> split <;> rfl
@[simp] theorem writeStatus_radix (s : State) (v : Word) : (s.writeStatus v).radix = s.radix := by
  simp only [State.writeStatus]; split <;> split <;> rfl
@[simp] theorem writeStatus_busy (s : State) (v : Word) : (s.writeStatus v).busy = s.busy := by
  simp only [State.writeStatus]; split <;> split <;> rfl
@[simp] theorem writeStatus_x (s : State) (v : Word) (k : Reg) : (s.writeStatus v).x k = s.x k := by
  simp only [State.writeStatus]; split <;> split <;> rfl
theorem writeStatus_done (s : State) (v : Word) : (s.writeStatus v).done = (s.done && !v.getLsbD 1) := by
  simp only [State.writeStatus]; split <;> split <;> simp_all
theorem writeStatus_err (s : State) (v : Word) : (s.writeStatus v).err = (s.err && !v.getLsbD 3) := by
  simp only [State.writeStatus]; split <;> split <;> simp_all
theorem writeStatus_ecode (s : State) (v : Word) :
    (s.writeStatus v).ecode = if v.getLsbD 3 then .none else s.ecode := by
  simp only [State.writeStatus]; split <;> split <;> simp_all
theorem writeStatus_errinfo (s : State) (v : Word) :
    (s.writeStatus v).errinfo = if v.getLsbD 3 then 0 else s.errinfo := by
  simp only [State.writeStatus]; split <;> split <;> simp_all

end Sys2Proof.Laws
end

