-- ==== Sys2Proof/Laws/Bus.lean ====
section
/-!
SUPPORT. The address map at the addresses 20_memory.md R53 writes, the words of a register window, and what a
transaction can change.
-/

namespace Sys2Proof.Laws

open Sys2Proof.Machine

/-! ### The address map -/

/-- Past the six control words, the map is bands of words (20_memory.md R53). -/
theorem regionOfWord_bands {w : Nat} (h : 6 ≤ w) :
    regionOfWord w =
      if w < 0x400 then .reserved
      else if w < 0xC00 then .x ⟨(w - 0x400) / 256 % 8, Nat.mod_lt _ (by decide)⟩ (w % 256)
      else if w < 0xD00 then .modulus (w % 256)
      else if w < 0xE00 then .nprime (w % 256)
      else if w < 0xF00 then .r2 (w % 256)
      else .reserved := by
  unfold regionOfWord
  iterate 6 rw [if_neg (by omega)]

/-- The word of Xi numbered `j` (20_memory.md R53). -/
theorem regionOfWord_x {w : Nat} (i : Reg) {j : Nat} (hj : j < 256) (h : w = 0x400 + 0x100 * i.val + j) :
    regionOfWord w = .x i j := by
  have hi := i.isLt
  have hword : w % 256 = j := by omega
  have hreg : (⟨(w - 0x400) / 256 % 8, Nat.mod_lt _ (by decide)⟩ : Reg) = i := Fin.ext (by simp only; omega)
  rw [regionOfWord_bands (by omega), hword, hreg]
  split_ifs <;> first | rfl | omega

/-- Word `j` of Xi stands at 0x1000 + 0x400·i + 4·j (20_memory.md R53). -/
theorem region_x {a : Addr} (i : Reg) {j : Nat} (hj : j < 256) (h : a.toNat / 4 = 0x400 + 0x100 * i.val + j) :
    region a = .x i j := regionOfWord_x i hj h

/-- The words of the MOD window (20_memory.md R53). -/
theorem region_modulus {a : Addr} {j : Nat} (hj : j < 256) (h : a.toNat / 4 = 0xC00 + j) : region a = .modulus j := by
  have hword : a.toNat / 4 % 256 = j := by omega
  rw [region, regionOfWord_bands (by omega), hword]
  split_ifs <;> first | rfl | omega

/-- The words of the NPRIME window (20_memory.md R53). -/
theorem region_nprime {a : Addr} {j : Nat} (hj : j < 256) (h : a.toNat / 4 = 0xD00 + j) : region a = .nprime j := by
  have hword : a.toNat / 4 % 256 = j := by omega
  rw [region, regionOfWord_bands (by omega), hword]
  split_ifs <;> first | rfl | omega

/-- The words of the R2 window (20_memory.md R53). -/
theorem region_r2 {a : Addr} {j : Nat} (hj : j < 256) (h : a.toNat / 4 = 0xE00 + j) : region a = .r2 j := by
  have hword : a.toNat / 4 % 256 = j := by omega
  rw [region, regionOfWord_bands (by omega), hword]
  split_ifs <;> first | rfl | omega

/-- The reserved addresses (20_memory.md R53). -/
theorem region_reserved {a : Addr} (h : (0x18 ≤ a.toNat ∧ a.toNat < 0x1000) ∨ 0x3C00 ≤ a.toNat) :
    region a = .reserved := by
  have hband : a.toNat / 4 < 0x400 ∨ 0xF00 ≤ a.toNat / 4 := by omega
  rw [region, regionOfWord_bands (by omega)]
  split_ifs <;> first | rfl | omega

/-! ### Words of a value -/

/-- A value with a word replaced, by its parts. -/
theorem replaceWord_eq (v j : Nat) (w : Word) :
    replaceWord v j w = 2 ^ (32 * j) * (2 ^ 32 * (v / 2 ^ (32 * (j + 1))) + w.toNat) + v % 2 ^ (32 * j) := by
  have : 2 ^ (32 * (j + 1)) = 2 ^ (32 * j) * 2 ^ 32 := by rw [← pow_add]; rfl
  unfold replaceWord
  rw [this]; ring

/-- The word just replaced reads back. -/
theorem wordOf_replaceWord_self (v j : Nat) (w : Word) : wordOf (replaceWord v j w) j = w := by
  apply BitVec.eq_of_toNat_eq
  have hp : 0 < 2 ^ (32 * j) := Nat.pow_pos (by decide)
  have hlow := Nat.mod_lt v hp
  have hw := w.isLt
  rw [wordOf, BitVec.toNat_ofNat, replaceWord_eq, Nat.mul_add_div hp, Nat.div_eq_of_lt hlow, Nat.add_zero,
    Nat.mul_add_mod, Nat.mod_eq_of_lt hw]

/-! ### What a transaction changes -/

/-- A write while a command is in flight changes at most CTRL, DONE and the error record (20_memory.md R57). -/
theorem writeBusy_keeps (s : State) (a : Addr) (v : Word) :
    (s.writeBusy a v).regs = s.regs ∧ (s.writeBusy a v).inflight = s.inflight ∧
      (s.writeBusy a v).modulus = s.modulus ∧ (s.writeBusy a v).nprime = s.nprime ∧
      (s.writeBusy a v).r2 = s.r2 ∧ (s.writeBusy a v).modv = s.modv ∧
      (s.writeBusy a v).nwIndex = s.nwIndex ∧ (s.writeBusy a v).inputs = s.inputs ∧
      (s.writeBusy a v).readLog = s.readLog := by
  unfold State.writeBusy
  split <;> simp [State.rejectWrite]

end Sys2Proof.Laws
end

