-- ==== Sys2Proof/Laws/Decode.lean ====
section
/-!
SUPPORT. The fields of a command word, read back from a word put together, and what the field checks accept.
-/

namespace Sys2Proof.Laws

@[simp] theorem regOf_regBits (r : Reg) : regOf (regBits r) = r := by
  revert r; decide

@[simp] theorem regBits_regOf (b : BitVec 3) : regBits (regOf b) = b := by
  revert b; decide

variable (op : BitVec 5) (rd rs1 rs2 : BitVec 3) (imm : Imm)

@[simp] theorem opField_commandWordOf : opField (commandWordOf op rd rs1 rs2 imm) = op := by
  simp only [opField, commandWordOf]
  ext i hi
  interval_cases i <;> simp

@[simp] theorem rdField_commandWordOf : rdField (commandWordOf op rd rs1 rs2 imm) = rd := by
  simp only [rdField, commandWordOf]
  ext i hi
  interval_cases i <;> simp

@[simp] theorem rs1Field_commandWordOf : rs1Field (commandWordOf op rd rs1 rs2 imm) = rs1 := by
  simp only [rs1Field, commandWordOf]
  ext i hi
  interval_cases i <;> simp

@[simp] theorem rs2Field_commandWordOf : rs2Field (commandWordOf op rd rs1 rs2 imm) = rs2 := by
  simp only [rs2Field, commandWordOf]
  ext i hi
  interval_cases i <;> simp

@[simp] theorem rsvField_commandWordOf : rsvField (commandWordOf op rd rs1 rs2 imm) = 0#2 := by
  simp only [rsvField, commandWordOf]
  ext i hi
  interval_cases i <;> simp

@[simp] theorem immField_commandWordOf : immField (commandWordOf op rd rs1 rs2 imm) = imm := by
  simp only [immField, commandWordOf]
  ext i hi
  interval_cases i <;> simp

/-- A word whose RSV is 0 is put together from its other five fields (30_encoding.md R80). -/
theorem commandWordOf_fields (c : Word) (h : rsvField c = 0#2) :
    commandWordOf (opField c) (rdField c) (rs1Field c) (rs2Field c) (immField c) = c := by
  have h14 : c.getLsbD 14 = false := by
    have := congrArg (·.getLsbD 0) h; simpa [rsvField] using this
  have h15 : c.getLsbD 15 = false := by
    have := congrArg (·.getLsbD 1) h; simpa [rsvField] using this
  simp only [commandWordOf, opField, rdField, rs1Field, rs2Field, immField]
  ext i hi
  rw [← BitVec.getLsbD_eq_getElem] at *
  interval_cases i <;> simp_all

end Sys2Proof.Laws
end

