-- ==== Sys2Proof/Laws/Ops.lean ====
section
/-!
SUPPORT. One lemma per shared operation that says once everything it can do: a completion that succeeds, a command
that raises an error, and the checks of Sys2Proof/Machine/Operands.lean.
-/

namespace Sys2Proof.Laws

open Sys2Proof.Machine

/-! ### Completions -/

/-- A retired state has completed. -/
theorem retire_completed (s : State) : s.retire.Completed := ⟨rfl, rfl, rfl⟩

/-- A command that writes nothing. -/
theorem complete_succeeds (s : State) : ∃ t, s.complete = .next t ∧ State.Succeeds [] s t :=
  ⟨s.retire, rfl, retire_completed s, fun _ _ => rfl, ⟨rfl, rfl, rfl⟩, rfl, ⟨rfl, rfl, rfl⟩,
    ⟨rfl, rfl, rfl, rfl, rfl⟩⟩

/-- A command that writes one operand register. -/
theorem complete_setX_succeeds (s : State) (rd : Reg) (v : Nat) :
    ∃ t, (s.setX rd v).complete = .next t ∧ State.Succeeds [rd] s t ∧ t.x rd = v :=
  ⟨(s.setX rd v).retire, rfl,
    ⟨retire_completed _, fun k hk => by simp only [retire_x]; exact setX_x_ne s v (by simpa using hk),
      ⟨rfl, rfl, rfl⟩, rfl, ⟨rfl, rfl, rfl⟩, ⟨rfl, rfl, rfl, rfl, rfl⟩⟩, by simp⟩

/-- A command that writes three operand registers, all different. -/
theorem complete_setX3_succeeds (s : State) {r0 r1 r2 : Reg} (v0 v1 v2 : Nat)
    (h01 : r0 ≠ r1) (h02 : r0 ≠ r2) (h12 : r1 ≠ r2) :
    ∃ t, (((s.setX r0 v0).setX r1 v1).setX r2 v2).complete = .next t ∧ State.Succeeds [r0, r1, r2] s t ∧
      t.x r0 = v0 ∧ t.x r1 = v1 ∧ t.x r2 = v2 := by
  refine ⟨(((s.setX r0 v0).setX r1 v1).setX r2 v2).retire, rfl,
    ⟨retire_completed _, fun k hk => ?_, ⟨rfl, rfl, rfl⟩, rfl, ⟨rfl, rfl, rfl⟩, ⟨rfl, rfl, rfl, rfl, rfl⟩⟩, ?_, ?_, ?_⟩
  · simp only [List.mem_cons, List.not_mem_nil, or_false, not_or] at hk
    simp [setX_x, hk.1, hk.2.1, hk.2.2]
  · simp [setX_x, h01, h02]
  · simp [setX_x, h12]
  · simp

/-- What recording an error leaves in the error record (60_exceptions.md R202). -/
theorem recordError_recorded (s : State) (code : ErrCode) (w : Word) :
    State.Recorded code w s (s.recordError code w).retire where
  first h := by simp [State.recordError, h]
  kept h := by constructor <;> simp [State.recordError, h]

/-- The word a completion records is the word in flight (40_control.md R101). -/
theorem commandWord_of_inflight {s : State} {c : Word} (h : s.inflight = some c) (i : Instr) :
    s.commandWord i = c := by
  simp [State.commandWord, h]

/-- A command that raises an error (60_exceptions.md R202). -/
theorem raise_fails {s : State} {c : Word} (h : s.inflight = some c) (code : ErrCode) (i : Instr) :
    ∃ t, s.raise code i = .next t ∧ State.Fails code c s.modv s t :=
  ⟨(s.recordError code c).retire, by rw [State.raise, commandWord_of_inflight h],
    retire_completed _, fun k _ => by simp, ⟨by simp, by simp, by simp⟩, by simp, recordError_recorded s code c,
    ⟨by simp, by simp, by simp, by simp, by simp⟩⟩

/-- The word that is no command (40_control.md R101, 30_encoding.md R84). -/
theorem completeWord_badcmd_fails {s : State} {c : Word} {e : DecodeError} (hd : decode c = .error e) :
    ∃ t, s.completeWord c = .next t ∧ State.Fails .badcmd c s.modv s t :=
  ⟨(s.recordError .badcmd c).retire, by rw [State.completeWord, hd],
    retire_completed _, fun k _ => by simp, ⟨by simp, by simp, by simp⟩, by simp, recordError_recorded s .badcmd c,
    ⟨by simp, by simp, by simp, by simp, by simp⟩⟩

/-! ### The checks -/

theorem withModulus_of_modv {s : State} (h : s.modv = true) (i : Instr) (go : Host.Outcome State Fault Refusal) :
    s.withModulus i go = go := by simp [State.withModulus, h]

theorem withModulus_of_not_modv {s : State} (h : s.modv = false) (i : Instr)
    (go : Host.Outcome State Fault Refusal) : s.withModulus i go = s.raise .nomod i := by
  simp [State.withModulus, h]

theorem withInDomain_of_lt {s : State} {vs : List Nat} (h : ∀ a ∈ vs, a < s.modulus) (i : Instr)
    (go : Host.Outcome State Fault Refusal) : s.withInDomain vs i go = go := by
  simp only [State.withInDomain]
  rw [if_pos (by simpa using h)]

theorem withInDomain_of_le {s : State} {vs : List Nat} {a : Nat} (ha : a ∈ vs) (h : s.modulus ≤ a) (i : Instr)
    (go : Host.Outcome State Fault Refusal) : s.withInDomain vs i go = s.raise .domain i := by
  simp only [State.withInDomain]
  rw [if_neg (by simp only [List.all_eq_true, decide_eq_true_eq, not_forall]; exact ⟨a, ha, by omega⟩)]

theorem withGroup_of_fits {s : State} {base : Reg} {size : Nat} (h : base.val + size ≤ 8) (i : Instr)
    (go : Host.Outcome State Fault Refusal) : s.withGroup base size i go = go := by
  simp [State.withGroup, groupFits, h]

theorem withGroup_of_not_fits {s : State} {base : Reg} {size : Nat} (h : ¬ base.val + size ≤ 8) (i : Instr)
    (go : Host.Outcome State Fault Refusal) : s.withGroup base size i go = s.raise .badcmd i := by
  simp [State.withGroup, groupFits, h]

/-- A member of a group that fits is the register at that distance from the base (30_encoding.md R81). -/
theorem groupReg_val {base : Reg} {k : Nat} (h : base.val + k < 8) : (groupReg base k).val = base.val + k := by
  simp [groupReg, Nat.mod_eq_of_lt h]

end Sys2Proof.Laws
end

