-- ==== Sys2Proof/Laws/PerInstr.lean ====
section
/-!
SUPPORT. What holds of the word of every command, one lemma per command: RSV is 0 (30_encoding.md R80) and the opcode
is none of the twelve reserved ones (R85).
-/

namespace Sys2Proof.Laws.EncodeFields

/-- The reserved opcodes of 30_encoding.md R85. -/
def reserved : List (BitVec 5) :=
  [0x05#5, 0x06#5, 0x07#5, 0x0E#5, 0x0F#5, 0x11#5, 0x16#5, 0x17#5, 0x1A#5, 0x1B#5, 0x1E#5, 0x1F#5]

/-- The command's word has RSV 0 and an opcode that is not reserved. -/
def Statement (i : Instr) : Prop := rsvField (encode i) = 0#2 ∧ opField (encode i) ∉ reserved

/-- The word of any fields, under an opcode that is not reserved. -/
theorem commandWordOf_fields_ok (op : BitVec 5) (rd rs1 rs2 : BitVec 3) (imm : Imm) (h : op ∉ reserved) :
    rsvField (commandWordOf op rd rs1 rs2 imm) = 0#2 ∧ opField (commandWordOf op rd rs1 rs2 imm) ∉ reserved := by
  simpa using h

theorem nop : Statement (.nop) := commandWordOf_fields_ok _ _ _ _ _ (by decide)
theorem copy (rd rs1 : Reg) : Statement (.copy rd rs1) := commandWordOf_fields_ok _ _ _ _ _ (by decide)
theorem cmpeq (rd rs1 rs2 : Reg) : Statement (.cmpeq rd rs1 rs2) := commandWordOf_fields_ok _ _ _ _ _ (by decide)
theorem mul (rd rs1 rs2 : Reg) : Statement (.mul rd rs1 rs2) := commandWordOf_fields_ok _ _ _ _ _ (by decide)
theorem bitlen (rd rs1 : Reg) : Statement (.bitlen rd rs1) := commandWordOf_fields_ok _ _ _ _ _ (by decide)
theorem setmod (rs1 : Reg) : Statement (.setmod rs1) := commandWordOf_fields_ok _ _ _ _ _ (by decide)
theorem montmul (rd rs1 rs2 : Reg) : Statement (.montmul rd rs1 rs2) := commandWordOf_fields_ok _ _ _ _ _ (by decide)
theorem modmul (rd rs1 rs2 : Reg) : Statement (.modmul rd rs1 rs2) := commandWordOf_fields_ok _ _ _ _ _ (by decide)
theorem tomont (rd rs1 : Reg) : Statement (.tomont rd rs1) := commandWordOf_fields_ok _ _ _ _ _ (by decide)
theorem frommont (rd rs1 : Reg) : Statement (.frommont rd rs1) := commandWordOf_fields_ok _ _ _ _ _ (by decide)
theorem reduce (rd rs1 : Reg) : Statement (.reduce rd rs1) := commandWordOf_fields_ok _ _ _ _ _ (by decide)
theorem modexp (rd rs1 rs2 : Reg) : Statement (.modexp rd rs1 rs2) := commandWordOf_fields_ok _ _ _ _ _ (by decide)
theorem xgcd (rd rs1 rs2 : Reg) : Statement (.xgcd rd rs1 rs2) := commandWordOf_fields_ok _ _ _ _ _ (by decide)
theorem modinv (rd rs1 rs2 : Reg) : Statement (.modinv rd rs1 rs2) := commandWordOf_fields_ok _ _ _ _ _ (by decide)
theorem mrtest (rd rs1 rs2 : Reg) : Statement (.mrtest rd rs1 rs2) := commandWordOf_fields_ok _ _ _ _ _ (by decide)
theorem rsachk (rd rs1 rs2 : Reg) (imm : Imm) : Statement (.rsachk rd rs1 rs2 imm) := commandWordOf_fields_ok _ _ _ _ _ (by decide)
theorem crtsign (rd rs1 rs2 : Reg) : Statement (.crtsign rd rs1 rs2) := commandWordOf_fields_ok _ _ _ _ _ (by decide)
theorem verify (rd rs1 rs2 : Reg) : Statement (.verify rd rs1 rs2) := commandWordOf_fields_ok _ _ _ _ _ (by decide)
theorem powchk (rd rs1 : Reg) (imm : Imm) : Statement (.powchk rd rs1 imm) := commandWordOf_fields_ok _ _ _ _ _ (by decide)
theorem blkchk (rd rs1 rs2 : Reg) (imm : Imm) : Statement (.blkchk rd rs1 rs2 imm) := commandWordOf_fields_ok _ _ _ _ _ (by decide)

end Sys2Proof.Laws.EncodeFields
end

