-- ==== Sys2Proof/Laws/Step.lean ====
section
/-!
SUPPORT. What a step can do, said once: the inversion of `step` and of a clock cycle.
-/

namespace Sys2Proof.Laws

open Sys2Proof.Machine

/-- The engine with a command in flight. -/
theorem engine_of_inflight {s : State} {c : Word} (h : s.inflight = some c) : s.engine = s.completeWord c := by
  simp [State.engine, h]

/-- The engine with no command in flight does nothing (40_control.md R101). -/
theorem engine_of_idle {s : State} (h : s.inflight = none) : s.engine = .next s := by
  simp [State.engine, h]

/-- With nothing presented, a step is the engine's. -/
theorem step_of_no_inputs {s : State} (h : s.inputs = []) : step s = s.engine := by
  simp [step, h]

/-- With a cycle presented, a step is that cycle's. -/
theorem step_of_cons {s : State} {c : Cycle} {cs : List Cycle} (h : s.inputs = c :: cs) :
    step s = State.cycle { s with inputs := cs } c := by
  simp [step, h]

/-- What a clock cycle does (60_exceptions.md R204, 70_reset_and_hazards.md R230). -/
theorem cycle_cases (s : State) (c : Cycle) :
    (c.rst = true ∧ s.cycle c = .next (s.resetEvent.transactInReset c.bus)) ∨
      (c.rst = false ∧ s.busy = true ∧ c.finish = true ∧ s.cycle c = (s.transactIn c.bus).engine) ∨
      (c.rst = false ∧ (s.busy = false ∨ c.finish = false) ∧ s.cycle c = .next (s.transactIn c.bus)) := by
  unfold State.cycle
  by_cases h1 : c.rst = true
  · exact .inl ⟨h1, by simp [h1]⟩
  · rw [Bool.not_eq_true] at h1
    by_cases h2 : (s.busy && c.finish) = true
    · rw [Bool.and_eq_true] at h2
      exact .inr (.inl ⟨h1, h2.1, h2.2, by simp [h1, h2]⟩)
    · refine .inr (.inr ⟨h1, ?_, by simp [h1, h2]⟩)
      cases hb : s.busy <;> cases hf : c.finish <;> simp_all

/-- Placing a command when nothing is presented makes the next step its completion. -/
theorem step_placeCommand {s : State} (h : s.inputs = []) (c : Word) :
    step (s.placeCommand c) = (s.placeCommand c).completeWord c := by
  rw [step_of_no_inputs (by simp [h, completionFirst]), engine_of_inflight (c := c) (by simp)]

end Sys2Proof.Laws
end

