-- ==== Sys2Proof/Tests/Slice0.lean ====
section
/-!
SUPPORT. Tests of the model against values that spec/ states (95_test_vectors.md unless a comment says otherwise), the
well-formedness smoke test, the decoding of every constructor's word, and for every statement with hypotheses a
witness that meets them (one for each clause, at a boundary of its range).
-/

namespace Sys2Proof.Tests

open Sys2Proof.Machine Sys2Proof.Claims

-- One theorem at a time: checked together, the many small kernel evaluations below hold too many threads open.
set_option Elab.async false

/-! ### Well-formedness: each group check refuses an ill-formed term (30_encoding.md R86) -/

theorem test_wellFormed_refuses_xgcd_group : (Instr.xgcd 6 0 1).wellFormed = false := by decide
theorem test_wellFormed_refuses_crtsign_group : (Instr.crtsign 0 0 4).wellFormed = false := by decide
theorem test_wellFormed_refuses_verify_group : (Instr.verify 0 0 6).wellFormed = false := by decide

/-! ### Decoding: a word of every constructor, written out in 30_encoding.md R89, 40_control.md R104 or
95_test_vectors.md section 2.1 -/

theorem test_decode_nop : decode 0x00000000#32 = .ok .nop := by decide
theorem test_decode_copy : decode 0x00000181#32 = .ok (.copy 4 1) := by decide
theorem test_decode_cmpeq : decode 0x00003E02#32 = .ok (.cmpeq 0 6 7) := by decide
theorem test_decode_mul : decode 0x00000863#32 = .ok (.mul 3 0 1) := by decide
theorem test_decode_bitlen : decode 0x00000384#32 = .ok (.bitlen 4 3) := by decide
theorem test_decode_setmod : decode 0x00000708#32 = .ok (.setmod 7) := by decide
theorem test_decode_montmul : decode 0x000023A9#32 = .ok (.montmul 5 3 4) := by decide
theorem test_decode_modmul : decode 0x000011EA#32 = .ok (.modmul 7 1 2) := by decide
theorem test_decode_tomont : decode 0x0000016B#32 = .ok (.tomont 3 1) := by decide
theorem test_decode_frommont : decode 0x000005CC#32 = .ok (.frommont 6 5) := by decide
/-- `reduce x2, x1`, by the fields of 30_encoding.md R80: OP 0x0D, RD 2, RS1 1. -/
theorem test_decode_reduce : decode 0b00000000000000000000000101001101#32 = .ok (.reduce 2 1) := by decide
theorem test_decode_modexp : decode 0x00000850#32 = .ok (.modexp 2 0 1) := by decide
theorem test_decode_xgcd : decode 0x00000812#32 = .ok (.xgcd 0 0 1) := by decide
theorem test_decode_modinv : decode 0x00002AD3#32 = .ok (.modinv 6 2 5) := by decide
theorem test_decode_mrtest : decode 0x000035F4#32 = .ok (.mrtest 7 5 6) := by decide
theorem test_decode_rsachk : decode 0x000635D5#32 = .ok (.rsachk 6 5 6 6#16) := by decide
theorem test_decode_crtsign : decode 0x000008B8#32 = .ok (.crtsign 5 0 1) := by decide
theorem test_decode_verify : decode 0x00002899#32 = .ok (.verify 4 0 5) := by decide
theorem test_decode_powchk : decode 0x0018005C#32 = .ok (.powchk 2 0 24#16) := by decide
theorem test_decode_blkchk : decode 0x0018087D#32 = .ok (.blkchk 3 0 1 24#16) := by decide

/-- The decode corner cases of 95_test_vectors.md section 2.1. -/
theorem test_decode_refuses : ∀ p ∈ ([(0xFFFFFFFF#32, DecodeError.reservedOpcode), (0x0000001F#32, .reservedOpcode),
    (0x00004000#32, .reservedBits), (0x00000020#32, .unusedField), (0x00000028#32, .unusedField),
    (0x00010001#32, .unusedField), (0x000008D2#32, .groupRange), (0x00002018#32, .groupRange),
    (0x00003019#32, .groupRange), (0x0018085C#32, .unusedField), (0x00008015#32, .reservedBits)] :
      List (Word × DecodeError)), decode p.1 = .error p.2 := by decide

theorem test_decodeTableWord_short : decodeTableWord 16 0x23A9 = some (.montmul 5 3 4) := by decide

/-! ### One step of each command -/

/-- A state right after reset but for X0..X7. -/
def withRegs (k : Fin 256) (xs : Vector Nat 8) : State := { State.resetOf k with regs := xs }

/-- A state with the modulus `n` loaded. -/
def withMod (k : Fin 256) (n : Nat) (xs : Vector Nat 8) : State := (withRegs k xs).loadModulus n

/-- The state after the command, issued and completed in one step. -/
def after (i : Instr) (s : State) : State :=
  match step (s.placeCommand (encode i)) with
  | .next t => t
  | .fault _ => s
  | .refused _ => s

theorem test_nop_status : (after .nop (State.resetOf 0)).statusWord = 0x2#32 := by decide
theorem test_copy : (after (.copy 4 1) (withRegs 0 #v[0, 65, 0, 0, 0, 0, 0, 0])).x 4 = 65 := by decide
theorem test_cmpeq_differs : (after (.cmpeq 0 6 7) (withRegs 0 #v[9, 0, 0, 0, 0, 0, 1529, 1528])).x 0 = 0 := by decide
theorem test_mul_fits : (after (.mul 3 0 1) (withRegs 0 #v[65536, 65535, 0, 0, 0, 0, 0, 0])).x 3 = 4294901760 := by
  decide
theorem test_mul_overflow : (after (.mul 0 0 0) (withRegs 0 #v[65536, 0, 0, 0, 0, 0, 0, 0])).ecode = .overflow := by
  decide
theorem test_bitlen : (after (.bitlen 4 3) (withRegs 0 #v[0, 0, 0, 3233, 0, 0, 0, 0])).x 4 = 12 := by decide
theorem test_setmod_constants :
    let t := after (.setmod 0) (withRegs 1 #v[0xFFFFFFFFFFFFFFC5, 0, 0, 0, 0, 0, 0, 0])
    t.nprime = 0xCBEEA4E1A08AD8F3 ∧ t.r2 = 0xD99 ∧ t.modv = true := by decide +kernel
theorem test_setmod_even :
    let t := after (.setmod 0) (withMod 0 3233 #v[10, 0, 0, 0, 0, 0, 0, 0])
    t.statusWord = 0x4A#32 ∧ t.modulus = 3233 ∧ t.errinfo = 0x8#32 := by decide +kernel
theorem test_montmul : (after (.montmul 5 3 4) (withMod 0 3233 #v[0, 0, 0, 716, 3046, 0, 0, 0])).x 5 = 777 := by
  decide +kernel
theorem test_montmul_nomod : (after (.montmul 0 1 1) (withRegs 0 #v[0, 5, 0, 0, 0, 0, 0, 0])).errinfo = 0x909#32 := by
  decide
theorem test_modmul : (after (.modmul 3 1 2) (withMod 0 3233 #v[0, 3232, 3232, 0, 0, 0, 0, 0])).x 3 = 1 := by
  decide +kernel
theorem test_modmul_domain :
    (after (.modmul 3 1 2) (withMod 0 3233 #v[0, 65, 3233, 0, 0, 0, 0, 0])).statusWord = 0x3E#32 := by decide +kernel
theorem test_tomont : (after (.tomont 3 1) (withMod 0 3233 #v[0, 3232, 0, 0, 0, 0, 0, 0])).x 3 = 2078 := by
  decide +kernel
theorem test_frommont : (after (.frommont 6 5) (withMod 0 3233 #v[0, 0, 0, 0, 0, 3232, 0, 0])).x 6 = 1937 := by
  decide +kernel
theorem test_reduce : (after (.reduce 2 1) (withMod 0 3233 #v[0, 0xFFFFFFFF, 0, 0, 0, 0, 0, 0])).x 2 = 1154 := by
  decide +kernel
theorem test_modexp_reduces_base :
    (after (.modexp 2 0 1) (withMod 0 3233 #v[3298, 17, 0, 0, 0, 0, 0, 0])).x 2 = 2790 := by decide +kernel
theorem test_modexp_modulus_one : (after (.modexp 2 0 1) (withMod 0 1 #v[5, 0, 7, 0, 0, 0, 0, 0])).x 2 = 0 := by
  decide +kernel
theorem test_xgcd_overlapping :
    (after (.xgcd 0 0 1) (withRegs 0 #v[240, 46, 0, 0, 0, 0, 0, 0])).regs =
      #v[2, 0xFFFFFFF7, 47, 0, 0, 0, 0, 0] := by decide +kernel
theorem test_xgcd_equal : (after (.xgcd 5 0 0) (withRegs 0 #v[7, 0, 0, 0, 0, 0, 0, 0])).regs =
      #v[7, 0, 0, 0, 0, 7, 0, 1] := by decide +kernel
theorem test_modinv : (after (.modinv 6 2 5) (withRegs 0 #v[0, 0, 17, 0, 0, 780, 0, 0])).x 6 = 413 := by
  decide +kernel
theorem test_modinv_arith : (after (.modinv 6 2 5) (withRegs 0 #v[0, 0, 6, 0, 0, 9, 0, 0])).ecode = .arith := by
  decide +kernel
theorem test_mrtest_composite : (after (.mrtest 7 0 1) (withRegs 0 #v[2047, 3, 0, 0, 0, 0, 0, 9])).x 7 = 0 := by
  decide +kernel
theorem test_mrtest_strong : (after (.mrtest 7 0 1) (withRegs 0 #v[2047, 2, 0, 0, 0, 0, 0, 9])).x 7 = 1 := by
  decide +kernel
theorem test_rsachk_length_only : (after (.rsachk 3 0 2 6#16) (withRegs 0 #v[61, 0, 3, 0, 0, 0, 0, 0])).x 3 = 1 := by
  decide +kernel
theorem test_rsachk_gcd_only : (after (.rsachk 3 0 2 6#16) (withRegs 0 #v[31, 0, 17, 0, 0, 0, 0, 0])).x 3 = 2 := by
  decide +kernel
/-- m1 − m2 is positive here and negative in the second test (S1). -/
theorem test_crtsign : (after (.crtsign 5 0 1) (withRegs 0 #v[65, 61, 53, 53, 49, 38, 0, 0])).x 5 = 588 := by
  decide +kernel
theorem test_crtsign_priority :
    (after (.crtsign 5 0 1) (withRegs 0 #v[5000, 62, 53, 53, 49, 38, 0, 0])).ecode = .modulus := by decide +kernel
theorem test_verify_reduces_signature :
    (after (.verify 4 0 5) (withRegs 0 #v[65, 0, 0, 0, 0, 3821, 17, 3233])).x 4 = 1 := by decide +kernel
theorem test_verify_mismatch :
    (after (.verify 4 0 5) (withRegs 0 #v[65, 0, 0, 0, 9, 589, 17, 3233])).x 4 = 0 := by decide +kernel
theorem test_powchk_strict : (after (.powchk 2 0 24#16) (withRegs 0 #v[0x01000000, 0, 9, 0, 0, 0, 0, 0])).x 2 = 0 := by
  decide +kernel
theorem test_powchk_below : (after (.powchk 2 0 24#16) (withRegs 0 #v[0x00FFFFFF, 0, 9, 0, 0, 0, 0, 0])).x 2 = 1 := by
  decide +kernel
theorem test_blkchk_above :
    (after (.blkchk 4 0 1 23#16) (withRegs 0 #v[0x00ABCDEF, 0x00ABCDEF, 0, 0, 9, 0, 0, 0])).x 4 = 0 := by decide +kernel
theorem test_blkchk_mismatch :
    (after (.blkchk 4 0 1 24#16) (withRegs 0 #v[0x00ABCDEE, 0x00ABCDEF, 0, 0, 9, 0, 0, 0])).x 4 = 0 := by decide +kernel

/-! ### The bus and the assembler -/

/-- 95_test_vectors.md section 2.9: an X2 write while busy. -/
theorem test_busy_write_rejected :
    (((State.resetOf 0).issue 0#32).busWrite 0x1800#16 7#32).errinfo = 0x00001800#32 := by decide
/-- 20_memory.md R55: least significant word first. -/
theorem test_word_order : (withRegs 1 #v[0x0000000100000002, 0, 0, 0, 0, 0, 0, 0]).busRead 0x1004#16 = 1#32 := by decide
/-- 30_encoding.md R89, R90. -/
theorem test_assemble :
    assembleLine ['M', 'o', 'n', 't', 'm', 'u', 'l', ' ', 'x', '5', ',', ' ', 'x', '3', ',', 'x', '4', ' ', ';', 'a'] =
      some (.montmul 5 3 4) := by decide +kernel
/-- 30_encoding.md R91. -/
theorem test_assemble_pseudo :
    assembleLine ['p', 'o', 'w', 'c', 'h', 'k', '2', '4', '8', ' ', 'x', '2', ',', 'x', '0'] =
      some (.powchk 2 0 248#16) := by decide +kernel

/-! ### Witnesses: the hypotheses of the statements can be met -/

/-- A word in flight. -/
def inFlight (c : Word) (s : State) : State := s.issue c

/-- A state with one cycle presented. -/
def presenting (cy : Cycle) (s : State) : State := { s with inputs := [cy] }

theorem test_witness_DecodeOfEncode : (Instr.xgcd 5 0 1).wellFormed = true ∧ (Instr.crtsign 0 0 3).wellFormed = true ∧
    (Instr.verify 0 0 5).wellFormed = true := by decide
theorem test_witness_EncodeOfDecode : decode 0x000023A9#32 = .ok (.montmul 5 3 4) := by decide
/-- Both clauses, at the group boundary rd = 5 and rd = 6, with the word in flight. -/
theorem test_witness_DecoderAcceptsExactlyTheTable :
    Accepted 0x000008B2#32 ∧ ¬ Accepted 0x000008D2#32 ∧
      (inFlight 0x000008D2#32 State.reset).inflight = some 0x000008D2#32 := by
  unfold Accepted; decide
theorem test_witness_ReservedOpcodes : op 0x0000001F#32 ∈ reservedOps ∧
    decode 0x00004000#32 = .error .reservedBits ∧
    (inFlight 0x0000001F#32 State.reset).inflight = some 0x0000001F#32 := by decide
theorem test_witness_GroupBases : (5 : Reg).val ≤ 5 ∧ 5 < (6 : Reg).val ∧ (3 : Reg).val ≤ 3 ∧ 3 < (4 : Reg).val ∧
    (inFlight (encode (.xgcd 6 0 1)) State.reset).inflight = some (encode (.xgcd 6 0 1)) ∧
    (inFlight (encode (.crtsign 0 0 4)) State.reset).inflight = some (encode (.crtsign 0 0 4)) ∧
    (inFlight (encode (.verify 0 0 6)) State.reset).inflight = some (encode (.verify 0 0 6)) := by decide
/-- The three clauses. -/
theorem test_witness_StepRunsTheDecodedCommand :
    decode 0x000023A9#32 = .ok (.montmul 5 3 4) ∧
      (inFlight 0x000023A9#32 State.reset).inflight = some 0x000023A9#32 ∧
      (inFlight 0x000023A9#32 State.reset).inputs = [] ∧
      (presenting ⟨false, some (.read 0#16), true⟩ (inFlight 0x000023A9#32 State.reset)).inputs =
        [⟨false, some (.read 0#16), true⟩] ∧ State.reset.inputs = [] := by decide
/-- Both clauses of `FormatOf`, for every opcode (the refused word of SETMOD to BLKCHK sets a field that is not used,
RSV, or a group base that is out of range). -/
theorem test_witness_FormatOf_accepted :
    Accepted 0x00000000#32 ∧ Accepted 0x00000181#32 ∧ Accepted 0x00000384#32 ∧ Accepted 0x00003E02#32 ∧
    Accepted 0x0018005C#32 ∧ Accepted 0x0018087D#32 ∧ Accepted 0x00000863#32 ∧ Accepted 0x00000708#32 ∧
    Accepted 0x000023A9#32 ∧ Accepted 0x000011EA#32 ∧ Accepted 0x0000016B#32 ∧ Accepted 0x000005CC#32 ∧
    Accepted 0x0000014D#32 ∧ Accepted 0x00000850#32 ∧ Accepted 0x00000812#32 ∧ Accepted 0x00002AD3#32 ∧
    Accepted 0x000035F4#32 ∧ Accepted 0x000635D5#32 ∧ Accepted 0x000008B8#32 ∧ Accepted 0x00002899#32 := by
  constructorm* _ ∧ _ <;> (unfold Accepted; decide)
theorem test_witness_FormatOf_refused :
    ¬ Accepted 0x00000020#32 ∧ ¬ Accepted 0x00010001#32 ∧ ¬ Accepted 0x00010004#32 ∧ ¬ Accepted 0x00013E02#32 ∧
    ¬ Accepted 0x0018085C#32 ∧ ¬ Accepted 0x0018487D#32 ∧ ¬ Accepted 0x00010863#32 ∧ ¬ Accepted 0x00000028#32 ∧
    ¬ Accepted 0x000063A9#32 ∧ ¬ Accepted 0x000051EA#32 ∧ ¬ Accepted 0x0000096B#32 ∧ ¬ Accepted 0x00000DCC#32 ∧
    ¬ Accepted 0x0000094D#32 ∧ ¬ Accepted 0x00004850#32 ∧ ¬ Accepted 0x000008D2#32 ∧ ¬ Accepted 0x00006AD3#32 ∧
    ¬ Accepted 0x000075F4#32 ∧ ¬ Accepted 0x00008015#32 ∧ ¬ Accepted 0x00002018#32 ∧ ¬ Accepted 0x00003019#32 := by
  constructorm* _ ∧ _ <;> (unfold Accepted; decide)
/-- Two words with opcode 0, one accepted and one refused (see above). -/
theorem test_witness_Nop : op 0x00000000#32 = 0x00 ∧ op 0x00000020#32 = 0x00 := by decide
/-- BITLEN: an operand at 0 and one at 2^W − 1. -/
theorem test_witness_Bitlen : (State.resetOf 0).x 3 = 0 ∧
    (withRegs 0 #v[0, 0, 0, 0xFFFFFFFF, 0, 0, 0, 0]).x 3 ≠ 0 ∧
    (withRegs 0 #v[0, 0, 0, 0xFFFFFFFF, 0, 0, 0, 0]).x 3 < 2 ^ (32 * (State.resetOf 0).nw) := by decide
/-- CMPEQ, POWCHK and BLKCHK: operands for both verdicts, at 2^T − 1 and at 2^T. -/
theorem test_witness_Verdicts : (withRegs 0 #v[0x00FFFFFF, 0x00FFFFFF, 0x01000000, 0, 0, 0, 0, 0]).x 0 =
      (withRegs 0 #v[0x00FFFFFF, 0x00FFFFFF, 0x01000000, 0, 0, 0, 0, 0]).x 1 ∧
    (withRegs 0 #v[0x00FFFFFF, 0x00FFFFFF, 0x01000000, 0, 0, 0, 0, 0]).x 0 < 2 ^ (24#16 : Imm).toNat ∧
    ¬ (withRegs 0 #v[0x00FFFFFF, 0x00FFFFFF, 0x01000000, 0, 0, 0, 0, 0]).x 2 < 2 ^ (24#16 : Imm).toNat := by
  decide +kernel
/-- The product just below and at 2^W. -/
theorem test_witness_Mul :
    (withRegs 0 #v[65535, 65537, 65536, 0, 0, 0, 0, 0]).x 0 * (withRegs 0 #v[65535, 65537, 65536, 0, 0, 0, 0, 0]).x 1 <
      2 ^ (32 * (State.resetOf 0).nw) ∧
    2 ^ (32 * (State.resetOf 0).nw) ≤
      (withRegs 0 #v[65535, 65537, 65536, 0, 0, 0, 0, 0]).x 2 * (withRegs 0 #v[65535, 65537, 65536, 0, 0, 0, 0, 0]).x 2 ∧
    (inFlight 0x863#32 State.reset).inflight = some 0x863#32 := by
  decide +kernel
theorem test_witness_Setmod : (withRegs 0 #v[1, 0, 0, 0, 0, 0, 0, 0]).x 0 % 2 = 1 ∧
    (withRegs 0 #v[1, 0, 0, 0, 0, 0, 0, 0]).x 1 % 2 = 0 ∧
    (inFlight 0x8#32 State.reset).inflight = some 0x8#32 := by decide

/-- A loaded modulus with operands 0, MOD − 1 and MOD. -/
def mont : State := withMod 0 3233 #v[0, 3232, 3233, 65, 0, 0, 0, 0]

/-- MONTMUL, MODMUL, TOMONT, FROMMONT, REDUCE and MODEXP: MODV 0; MODV 1 with an operand at MOD; MODV 1 with MOD odd
and operands at 0 and MOD − 1; an inverse of 2^W modulo MOD; a Montgomery form. -/
theorem test_witness_MontgomeryCommands :
    (State.resetOf 0).modv = false ∧ mont.modv = true ∧ mont.modulus ≤ mont.x 2 ∧ mont.modulus % 2 = 1 ∧
      mont.x 0 < mont.modulus ∧ mont.x 1 < mont.modulus ∧
      2 ^ (32 * mont.nw) % mont.modulus * 1296 % mont.modulus = 1 % mont.modulus ∧
      mont.x 0 = 0 * 2 ^ (32 * mont.nw) % mont.modulus ∧
      (inFlight 0x909#32 mont).inflight = some 0x909#32 ∧ (inFlight 0x909#32 mont).modv = true := by decide +kernel
theorem test_witness_XgcdModinv : (5 : Reg).val ≤ 5 ∧
    (withRegs 0 #v[17, 780, 6, 9, 0, 0, 0, 0]).x 4 = 0 ∧
    Nat.gcd ((withRegs 0 #v[17, 780, 6, 9, 0, 0, 0, 0]).x 2) ((withRegs 0 #v[17, 780, 6, 9, 0, 0, 0, 0]).x 3) ≠ 1 ∧
    (withRegs 0 #v[17, 780, 6, 9, 0, 0, 0, 0]).x 1 ≠ 0 ∧
    Nat.gcd ((withRegs 0 #v[17, 780, 6, 9, 0, 0, 0, 0]).x 0) ((withRegs 0 #v[17, 780, 6, 9, 0, 0, 0, 0]).x 1) = 1 := by
  decide +kernel

/-- Candidates and bases for MRTEST and RSACHK. -/
def cand : State := withRegs 0 #v[2, 1, 3, 61, 0, 60, 4, 561]

/-- The clauses of MRTEST: n = 2; n below 2 and even; a base 0 and a base n; a base 1 and n − 1, with n − 1 = 2^k·d. -/
theorem test_witness_Mrtest : cand.x 0 = 2 ∧
    (cand.x 1 ≠ 2 ∧ cand.x 1 < 2) ∧ (cand.x 6 ≠ 2 ∧ cand.x 6 % 2 = 0) ∧ (3 ≤ cand.x 2 ∧ cand.x 2 % 2 = 1) ∧
    cand.x 4 = 0 ∧ cand.x 3 ≤ cand.x 3 ∧ (1 ≤ cand.x 1 ∧ cand.x 1 < cand.x 3) ∧ cand.x 5 < cand.x 3 ∧
    (cand.x 3 - 1 = 2 ^ 2 * 15 ∧ 15 % 2 = 1) ∧ (inFlight 0x35F4#32 cand).inflight = some 0x35F4#32 := by
  decide +kernel
theorem test_witness_Rsachk :
    (cand.x 3 < 2 ^ (6#16 : Imm).toNat ∧ ((6#16 : Imm).toNat ≠ 0 → 2 ^ ((6#16 : Imm).toNat - 1) ≤ cand.x 3)) ∧
    (1 ≤ cand.x 3 ∧ Nat.gcd (cand.x 3 - 1) 17 = 1) ∧ ¬ (1 ≤ cand.x 4) := by
  decide +kernel
theorem test_witness_MrtestPassesEveryPrime :
    Nat.Prime (cand.x 3) ∧ cand.x 3 ≠ 2 ∧ 1 ≤ cand.x 5 ∧ cand.x 5 < cand.x 3 :=
  ⟨by have : cand.x 3 = 61 := by decide
      rw [this]; norm_num, by decide, by decide, by decide⟩

/-- The key of 45_rsa.md: m, p, q, dP, dQ, qInv. -/
def key (m p : Nat) : State := withRegs 0 #v[m, p, 53, 53, 49, 38, 17, 3233]

/-- The clauses of CRTSIGN: an even p; p·q ≥ 2^W; m = n; m = n − 1. -/
theorem test_witness_Crtsign : (1 : Reg).val ≤ 3 ∧
    (key 65 62).x 1 % 2 = 0 ∧
    ((key 65 0xFFFFFFFF).x 1 % 2 = 1 ∧ (key 65 0xFFFFFFFF).x (member 1 1) % 2 = 1 ∧
      2 ^ (32 * (key 65 0xFFFFFFFF).nw) ≤ (key 65 0xFFFFFFFF).x 1 * (key 65 0xFFFFFFFF).x (member 1 1)) ∧
    ((key 3233 61).x 1 * (key 3233 61).x (member 1 1) < 2 ^ (32 * (key 3233 61).nw) ∧
      (key 3233 61).x 1 * (key 3233 61).x (member 1 1) ≤ (key 3233 61).x 0) ∧
    ((key 3232 61).x 1 % 2 = 1 ∧ (key 3232 61).x 0 < (key 3232 61).x 1 * (key 3232 61).x (member 1 1)) ∧
    (inFlight 0x8B8#32 (key 65 62)).inflight = some 0x8B8#32 := by
  decide +kernel

/-- Messages, a signature, e, an odd n and an even n. -/
def signed (n : Nat) : State := withRegs 0 #v[3232, 3233, 65, 0, 0, 588, 17, n]

theorem test_witness_Verify : (5 : Reg).val ≤ 5 ∧
    (signed 3234).x (member 5 2) % 2 = 0 ∧
    ((signed 3233).x (member 5 2) % 2 = 1 ∧ (signed 3233).x (member 5 2) ≤ (signed 3233).x 1 ∧
      (signed 3233).x 0 < (signed 3233).x (member 5 2)) ∧
    (signed 3233).x 5 ^ (signed 3233).x (member 5 1) % (signed 3233).x (member 5 2) = (signed 3233).x 2 := by
  decide +kernel
theorem test_witness_CrtSignatureVerifies :
    ((key 65 61).x 0 = 65 ∧ (key 65 61).x 1 = 61 ∧ (key 65 61).x (member 1 1) = 53) ∧ Nat.Prime 61 ∧ Nat.Prime 53 ∧
      413 * 17 % Nat.lcm (61 - 1) (53 - 1) = 1 ∧ (key 65 61).x (member 1 2) = 413 % (61 - 1) ∧
      (key 65 61).x (member 1 3) = 413 % (53 - 1) ∧ (key 65 61).x (member 1 4) * 53 % 61 = 1 ∧
      61 * 53 < 2 ^ (32 * (key 65 61).nw) ∧ (signed 3233).x 2 = 65 ∧ (signed 3233).x 5 = 65 ^ 413 % (61 * 53) ∧
      (signed 3233).x (member 5 1) = 17 ∧ (signed 3233).x (member 5 2) = 61 * 53 :=
  ⟨by decide, by norm_num, by norm_num, by decide +kernel, by decide, by decide, by decide, by decide, by decide,
    by decide +kernel, by decide, by decide⟩

/-- The slow signature: MOD = p·q, the message and d. -/
theorem test_witness_SlowSignature :
    (withMod 0 3233 #v[65, 413, 0, 0, 0, 0, 0, 0]).modv = true ∧
      (withMod 0 3233 #v[65, 413, 0, 0, 0, 0, 0, 0]).modulus = 61 * 53 ∧
      (withMod 0 3233 #v[65, 413, 0, 0, 0, 0, 0, 0]).x 0 = 65 ∧
      (withMod 0 3233 #v[65, 413, 0, 0, 0, 0, 0, 0]).x 1 = 413 := by decide +kernel

/-- A next state of a command, one that fails, and a SETMOD. -/
theorem test_witness_Frames :
    exec .nop State.reset = .next State.reset.retire ∧
      exec (.reduce 0 1) (inFlight 0x10D#32 State.reset) =
        .next ((inFlight 0x10D#32 State.reset).recordError .nomod 0x10D#32).retire ∧
      State.reset.err = false ∧
      (((inFlight 0x10D#32 State.reset).recordError .nomod 0x10D#32).retire).err = true ∧
      exec (.setmod 0) State.reset = .next ((State.reset.dropModulus).recordError .modulus 0x8#32).retire ∧
      IsSetmod (.setmod 0) ∧ ¬ IsSetmod .nop ∧ wordNumber 0x1000#16 ≠ 3 ∧ wordNumber 0x1000#16 ≠ 5 ∧
      (∀ k ∈ dests (.setmod 0), ∀ j, j < 256 → wordNumber 0x1000#16 ≠ xWord k j) ∧
      wordNumber 0x2FFC#16 < 0x3000 / 4 ∧ 0x3C00 / 4 ≤ wordNumber 0x3C00#16 :=
  ⟨rfl, rfl, rfl, rfl, rfl, ⟨0, rfl⟩, fun ⟨_, h⟩ => (by cases h), by decide, by decide, fun _ h => (by cases h),
    by decide, by decide⟩
theorem test_witness_RecordError : State.reset.err = false ∧ (State.reset.recordError .arith 1#32).err = true := by
  decide

/-- The addresses of each clause of the bus statements, at both ends of its range. -/
theorem test_witness_BusAddresses :
    (wordNumber 0x0003#16 = 0 ∧ wordNumber 0x0004#16 = 1 ∧ wordNumber 0x000B#16 = 2 ∧ wordNumber 0x000C#16 = 3 ∧
      wordNumber 0x0013#16 = 4 ∧ wordNumber 0x0014#16 = 5) ∧
    (wordNumber 0x1000#16 = xWord 0 0 ∧ wordNumber 0x2FFF#16 = xWord 7 255) ∧
    (wordNumber 0x3000#16 = 0x3000 / 4 + 0 ∧ wordNumber 0x33FC#16 = 0x3000 / 4 + 255) ∧
    (wordNumber 0x3400#16 = 0x3400 / 4 + 0 ∧ wordNumber 0x37FC#16 = 0x3400 / 4 + 255) ∧
    (wordNumber 0x3800#16 = 0x3800 / 4 + 0 ∧ wordNumber 0x3BFC#16 = 0x3800 / 4 + 255) ∧
    (6 ≤ wordNumber 0x0018#16 ∧ wordNumber 0x0FFC#16 < 0x1000 / 4) ∧
    (0x3C00 / 4 ≤ wordNumber 0x3C00#16 ∧ 0x3C00 / 4 ≤ wordNumber 0xFFFF#16) := by decide
/-- The read of a cycle, the idle and busy states, a word of the window and one beyond NW. -/
theorem test_witness_Bus :
    (presenting ⟨false, some (.read 0x1000#16), false⟩ State.reset).inputs =
        [⟨false, some (.read 0x1000#16), false⟩] ∧
      State.reset.busy = false ∧ (inFlight 0#32 State.reset).busy = true ∧ 0 < State.reset.nw ∧ State.reset.nw ≤ 1 ∧
      wordNumber 0x1001#16 = wordNumber 0x1002#16 ∧ wordNumber 0x1004#16 ≠ wordNumber 0x1000#16 := by decide
theorem test_witness_Issue :
    (presenting ⟨false, some (.write 0x0010#16 0x1F#32), false⟩ State.reset).inputs =
        [⟨false, some (.write 0x0010#16 0x1F#32), false⟩] ∧
      (presenting ⟨false, some (.write 0x0010#16 0x1F#32), false⟩ State.reset).busy = false ∧
      (presenting ⟨false, some (.write 0x0010#16 0x1F#32), false⟩ (inFlight 0#32 State.reset)).busy = true := by decide

/-- A reset cycle with a read and one with a write. -/
theorem test_witness_Reset :
    (presenting ⟨true, some (.read 0x1000#16), true⟩ mont).inputs = [⟨true, some (.read 0x1000#16), true⟩] ∧
      (presenting ⟨true, some (.write 0x1000#16 1#32), true⟩ mont).inputs =
        [⟨true, some (.write 0x1000#16 1#32), true⟩] ∧
      ∀ a, some (Transaction.write 0x1000#16 1#32) ≠ some (.read a) :=
  ⟨rfl, rfl, fun _ h => by cases h⟩

/-- A busy state in which a transaction and the completion fall in one cycle: a CMD write, an X write, a STATUS write
that clears DONE, and a reset. -/
theorem test_witness_OneCycle :
    (∀ cy ∈ ([⟨false, some (.write 0x0010#16 0#32), true⟩, ⟨false, some (.write 0x2FFC#16 0#32), true⟩,
        ⟨false, some (.write 0x000C#16 2#32), true⟩, ⟨true, none, true⟩] : List Cycle),
      (presenting cy (inFlight 0#32 State.reset)).inputs = [cy] ∧
        (presenting cy (inFlight 0#32 State.reset)).busy = true ∧ cy.finish = true ∧
        (presenting cy (inFlight 0#32 State.reset)).err = false) ∧
    wordNumber 0x0010#16 = 4 ∧ (0x1000 / 4 ≤ wordNumber 0x2FFC#16 ∧ wordNumber 0x2FFC#16 < 0x3000 / 4) ∧
    wordNumber 0x000C#16 = 3 ∧ (2#32 : Word).getLsbD 1 = true := by decide
theorem test_witness_Latency : (inFlight 0x1FF#32 State.reset).inflight = some 0x1FF#32 ∧
    ∀ cy ∈ ([⟨false, some (.write 0x1000#16 5#32), false⟩, ⟨false, some (.read 0x000C#16), false⟩] : List Cycle),
      cy.rst = false ∧ cy.finish = false := by decide

/-- The state `mont` meets the invariant (a modulus is loaded), and a step from it exists. -/
theorem test_witness_Invariant : mont.Inv ∧ step mont = .next mont ∧ mont.err = false where
  left :=
    { regsFit := by decide +kernel
      modulusFits := by decide +kernel
      nprimeFits := by decide +kernel
      r2Fits := by decide +kernel
      constants := .inr (by decide +kernel)
      modvLoaded := by decide
      errorClear := by decide
      errorSet := by decide
      busyNotDone := by decide }
  right := ⟨rfl, rfl⟩

theorem test_witness_Constants : 3233 % 2 = 1 ∧ 3233 < 2 ^ (32 * 1) ∧ 0 < 3233 ∧ 3232 < 3233 ∧ 1 ≤ 1 := by decide
/-- 41_montgomery.md section 2: MontProd(716, 3046) = 777, and NPRIME and R2 of 3233, by the reference algorithms. -/
theorem test_reference : ciosProduct 1 3233 716 3046 = 777 ∧ newtonInverse (2 ^ 32) 3233 5 = 2 ^ 32 - 0x669F289F ∧
    doubledRadix (2 ^ 32) 3233 32 = 2029 := by decide +kernel

/-- `mont` with X4 = R2 and X5 = 1, for the second and third law. -/
def montLaws : State := (mont.setX 4 2029).setX 5 1

/-- The premises of the laws of R127: operands below MOD, a register that holds R2, one that holds 1, MOD > 1, and
registers for the first law. -/
theorem test_witness_Laws : montLaws.modv = true ∧ montLaws.x 1 < montLaws.modulus ∧ montLaws.x 3 < montLaws.modulus ∧
    montLaws.x 4 < montLaws.modulus ∧ montLaws.x 4 = montLaws.r2 ∧ montLaws.x 5 < montLaws.modulus ∧
    montLaws.x 5 = 1 ∧ 1 < montLaws.modulus ∧ (6 : Reg) ≠ 3 ∧ (6 : Reg) ≠ 7 := by decide +kernel
theorem test_witness_Laws_inv : montLaws.Inv where
  regsFit := by decide +kernel
  modulusFits := by decide +kernel
  nprimeFits := by decide +kernel
  r2Fits := by decide +kernel
  constants := .inr (by decide +kernel)
  modvLoaded := by decide
  errorClear := by decide
  errorSet := by decide
  busyNotDone := by decide
theorem test_witness_Laws_next : ∃ s1 s2 s3 s4 u, exec (.tomont 6 1) montLaws = .next s1 ∧
    exec (.tomont 7 3) s1 = .next s2 ∧ exec (.montmul 6 6 7) s2 = .next s3 ∧ exec (.frommont 6 6) s3 = .next s4 ∧
    exec (.modmul 7 1 3) montLaws = .next u :=
  ⟨_, _, _, _, _, rfl, rfl, rfl, rfl, rfl⟩

/-- MOD = 1 with the only in-domain operand, and with one out of it. -/
theorem test_witness_ModulusOne : (withMod 0 1 #v[0, 1, 0, 0, 0, 0, 0, 0]).modv = true ∧
    (withMod 0 1 #v[0, 1, 0, 0, 0, 0, 0, 0]).modulus = 1 ∧ (withMod 0 1 #v[0, 1, 0, 0, 0, 0, 0, 0]).x 0 = 0 ∧
    (withMod 0 1 #v[0, 1, 0, 0, 0, 0, 0, 0]).x 1 ≠ 0 ∧
    (inFlight 9#32 (withMod 0 1 #v[0, 1, 0, 0, 0, 0, 0, 0])).inflight = some 9#32 := by decide +kernel
theorem test_witness_SquareAndMultiply : mont.modv = true ∧ mont.modulus % 2 = 1 := by decide
/-- Both operands at 2^W − 1. -/
def widest : State := withRegs 0 #v[0xFFFFFFFF, 0xFFFFFFFF, 0, 0, 0, 0, 0, 0]
theorem test_witness_Coefficients : (5 : Reg).val ≤ 5 ∧ widest.x 0 < 2 ^ (32 * widest.nw) ∧
    widest.x 1 < 2 ^ (32 * widest.nw) ∧ EuclidEnds (widest.x 0) (widest.x 1) 1 0 0 1 0xFFFFFFFF 0 1 :=
  ⟨by decide, by decide +kernel, by decide +kernel,
    .pass 0xFFFFFFFF 0xFFFFFFFF 1 _ _ _ _ _ _ _ (by decide) (by decide) (.stop _ _ _ _ _)⟩
theorem test_witness_Assembler : assembleLine ['n', 'o', 'p'] = some .nop := by decide +kernel
/-- The value 2^W − 1 over the register's value 2^W − 1, at NW = 2. -/
theorem test_witness_Ld :
    let s : State := { withRegs 1 #v[0xFFFFFFFFFFFFFFFF, 0, 0, 0, 0, 0, 0, 0] with
      inputs := hostOpCycles 2 (.ld 0 0xFFFFFFFFFFFFFFFF) }
    s.busy = false ∧ s.x 0 < 2 ^ (32 * s.nw) ∧ 0xFFFFFFFFFFFFFFFF < 2 ^ (32 * s.nw) ∧
      s.inputs = hostOpCycles s.nw (.ld 0 0xFFFFFFFFFFFFFFFF) := by decide +kernel

end Sys2Proof.Tests
end

section
/-!
PROOFS. The Montgomery definitions of 00_scope.md R17 and their two consequences, for the values the model computes.
-/

namespace Sys2Proof.Proofs

open Sys2Proof.Machine Sys2Proof.Laws

/-- `Rinv` lies in [0, N) (00_scope.md R17). -/
theorem rInv_lt (radix : Nat) {n : Nat} (hn : 0 < n) : rInv radix n < n := invMod_lt _ hn

/-- A Montgomery product with one operand in Montgomery form takes that operand out of the form: its factor R meets
`Rinv`. -/
theorem montProd_form_left {n : Nat} (h : n % 2 = 1) (k a b : Nat) :
    montProd (2 ^ k) n (a * 2 ^ k % n) b = a * b % n := by
  have hinv : 2 ^ k * rInv (2 ^ k) n ≡ 1 [MOD n] := rInv_mul h k
  calc a * 2 ^ k % n * b * rInv (2 ^ k) n
      ≡ a * 2 ^ k * b * rInv (2 ^ k) n [MOD n] := ((Nat.mod_modEq _ n).mul_right b).mul_right _
    _ = a * b * (2 ^ k * rInv (2 ^ k) n) := by ring
    _ ≡ a * b * 1 [MOD n] := hinv.mul_left _
    _ = a * b := mul_one _

/-- The Montgomery product of two forms is the form of the product (00_scope.md R17). -/
theorem montProd_forms {n : Nat} (h : n % 2 = 1) (k a b : Nat) :
    montProd (2 ^ k) n (a * 2 ^ k % n) (b * 2 ^ k % n) = a * b * 2 ^ k % n := by
  rw [montProd_form_left h, Nat.mul_mod_mod, mul_assoc]

/-- The Montgomery product with 1 multiplies by `Rinv` (00_scope.md R17). -/
theorem montProd_one (radix n a : Nat) : montProd radix n a 1 = a * rInv radix n % n := by
  rw [montProd, mul_one]

/-- Settles O53: R and an odd n are coprime, so `Rinv` and NPRIME are the inverses R17 names, and R meets `Rinv` in
each product. -/
theorem montgomeryConstantsMeetTheirDefinitions : Obligations.MontgomeryConstantsMeetTheirDefinitions := by
  intro w n hodd hlt
  have hn : 0 < n := by omega
  have hw : 0 < w := Nat.pos_of_ne_zero fun h0 => by subst h0; omega
  have hcoprime : Nat.gcd n (2 ^ w) = 1 := Nat.gcd_comm n _ ▸ gcd_two_pow_of_odd hodd w
  have hinverse : 2 ^ w % n * rInv (2 ^ w) n % n = 1 % n := by rw [Nat.mod_mul_mod, rInv_mul hodd]
  have hsquare : r2Of (2 ^ w) n = (2 ^ w) ^ 2 % n := by rw [r2Of, sq]
  exact ⟨hcoprime, ⟨rInv_lt _ hn, hinverse⟩, ⟨nPrimeOf_lt n (Nat.two_pow_pos w), nPrimeOf_mul hodd w hw⟩, hsquare,
    fun a b _ _ => ⟨montProd_forms hodd w a b, montProd_one _ n a⟩⟩

end Sys2Proof.Proofs
end

section
/-!
PROOFS. Every command completes (40_control.md R101): each meaning of `exec` ends in a completion that succeeds or in
one that raises an error, and both retire the command in flight.
-/

namespace Sys2Proof.Proofs

open Sys2Proof.Machine Sys2Proof.Laws

/-- The outcome goes on, in a state where the command has completed. -/
def Completes (o : Host.Outcome State Fault Refusal) : Prop := ∃ t, o = .next t ∧ t.Completed

theorem completes_complete (s : State) : Completes s.complete := ⟨s.retire, rfl, retire_completed s⟩

theorem completes_raise (s : State) (code : ErrCode) (i : Instr) : Completes (s.raise code i) :=
  ⟨(s.recordError code (s.commandWord i)).retire, rfl, retire_completed _⟩

theorem completes_ite {c : Prop} [Decidable c] {o o' : Host.Outcome State Fault Refusal}
    (ho : Completes o) (ho' : Completes o') : Completes (if c then o else o') := by
  split
  · exact ho
  · exact ho'

/-! ### The checks: each goes on with the command or raises its error -/

theorem completes_withModulus {go : Host.Outcome State Fault Refusal} (h : Completes go) (s : State) (i : Instr) :
    Completes (s.withModulus i go) := completes_ite h (completes_raise s .nomod i)

theorem completes_withInDomain {go : Host.Outcome State Fault Refusal} (h : Completes go) (s : State) (vs : List Nat)
    (i : Instr) : Completes (s.withInDomain vs i go) := completes_ite h (completes_raise s .domain i)

theorem completes_withGroup {go : Host.Outcome State Fault Refusal} (h : Completes go) (s : State) (base : Reg)
    (size : Nat) (i : Instr) : Completes (s.withGroup base size i go) := completes_ite h (completes_raise s .badcmd i)

/-- Every command completes, in every state (40_control.md R101). -/
theorem exec_completes (i : Instr) (s : State) : Completes (exec i s) := by
  cases i with
  | nop => exact completes_complete _
  | copy rd rs1 => exact completes_complete _
  | cmpeq rd rs1 rs2 => exact completes_complete _
  | mul rd rs1 rs2 =>
    rw [exec, execMul]
    exact completes_ite (completes_raise ..) (completes_complete _)
  | bitlen rd rs1 => exact completes_complete _
  | setmod rs1 =>
    rw [exec, execSetmod]
    exact completes_ite (completes_raise ..) (completes_complete _)
  | montmul rd rs1 rs2 => exact completes_withModulus (completes_withInDomain (completes_complete _) ..) ..
  | modmul rd rs1 rs2 => exact completes_withModulus (completes_withInDomain (completes_complete _) ..) ..
  | tomont rd rs1 => exact completes_withModulus (completes_withInDomain (completes_complete _) ..) ..
  | frommont rd rs1 => exact completes_withModulus (completes_withInDomain (completes_complete _) ..) ..
  | reduce rd rs1 => exact completes_withModulus (completes_complete _) ..
  | modexp rd rs1 rs2 => exact completes_withModulus (completes_complete _) ..
  | xgcd rd rs1 rs2 => exact completes_withGroup (completes_complete _) ..
  | modinv rd rs1 rs2 =>
    rw [exec, execModinv]
    exact completes_ite (completes_raise ..) (completes_complete _)
  | mrtest rd rs1 rs2 =>
    rw [exec, execMrtest]
    exact completes_ite (completes_complete _) (completes_ite (completes_complete _)
      (completes_ite (completes_raise ..) (completes_complete _)))
  | rsachk rd rs1 rs2 imm => exact completes_complete _
  | crtsign rd rs1 rs2 =>
    rw [exec, execCrtsign]
    exact completes_withGroup (completes_ite (completes_raise ..) (completes_ite (completes_raise ..)
      (completes_ite (completes_raise ..) (completes_complete _)))) ..
  | verify rd rs1 rs2 =>
    rw [exec, execVerify]
    exact completes_withGroup (completes_ite (completes_raise ..)
      (completes_ite (completes_raise ..) (completes_complete _))) ..
  | powchk rd rs1 imm => exact completes_complete _
  | blkchk rd rs1 rs2 imm => exact completes_complete _

/-- The word in flight completes, whether or not it is a command (40_control.md R101). -/
theorem completeWord_completes (s : State) (c : Word) : Completes (s.completeWord c) := by
  cases hd : decode c with
  | ok i => simpa only [State.completeWord, hd] using exec_completes i s
  | error e =>
    obtain ⟨t, ht, hfails⟩ := completeWord_badcmd_fails (s := s) hd
    exact ⟨t, ht, hfails.completed⟩

/-- The engine's step, with a command in flight, is its completion. -/
theorem engine_completes_of_busy {s : State} (h : s.busy = true) : Completes s.engine := by
  obtain ⟨c, hc⟩ := Option.isSome_iff_exists.mp h
  rw [engine_of_inflight hc]
  exact completeWord_completes s c

end Sys2Proof.Proofs
end

section
/-!
PROOFS. The status and control images and their writes (10_state.md R27, R28), the interrupt line (R34) and the reset
values (R38).
-/

namespace Sys2Proof.Proofs

open Sys2Proof.Machine Sys2Proof.Laws Sys2Proof.Claims

/-! ### The images as numbers -/

/-- A field placed above the bits of a word is added to it. -/
theorem toNat_or_shiftLeft {v w : Word} {n : Nat} (hv : v.toNat < 2 ^ n) (hw : w.toNat * 2 ^ n < 2 ^ 32) :
    (v ||| w <<< n).toNat = v.toNat + 2 ^ n * w.toNat := by
  rw [BitVec.toNat_or, BitVec.toNat_shiftLeft, Nat.shiftLeft_eq, Nat.mod_eq_of_lt hw, Nat.or_comm, Nat.mul_comm,
    ← Nat.two_pow_add_eq_or_of_lt hv, Nat.add_comm]

theorem toNat_bitWord (b : Bool) : (bitWord b).toNat = bit b := by cases b <;> rfl

theorem toNat_errNumber (e : ErrCode) : (errNumber e).toNat = codeNumber e := by cases e <;> rfl

theorem bit_le_one (b : Bool) : bit b ≤ 1 := by cases b <;> decide

theorem toNat_bitWord_lt (b : Bool) : (bitWord b).toNat < 2 ^ 1 := by
  rw [toNat_bitWord]
  exact Nat.lt_succ_of_le (bit_le_one b)

theorem toNat_errNumber_lt (e : ErrCode) : (errNumber e).toNat < 2 ^ 4 := by cases e <;> decide

/-- A flag placed above the bits of a word. -/
theorem toNat_or_flag {v : Word} {n : Nat} (hv : v.toNat < 2 ^ n) (hn : n < 32) (b : Bool) :
    (v ||| bitWord b <<< n).toNat = v.toNat + 2 ^ n * bit b := by
  have hfits : bit b * 2 ^ n < 2 ^ 32 :=
    (mul_le_of_le_one_left (Nat.zero_le _) (bit_le_one b)).trans_lt (Nat.pow_lt_pow_right (by decide) hn)
  rw [toNat_or_shiftLeft hv (by rwa [toNat_bitWord]), toNat_bitWord]

/-- A word with a flag placed above its bits has one bit more. -/
theorem toNat_or_flag_lt {v : Word} {n : Nat} (hv : v.toNat < 2 ^ n) (hn : n < 32) (b : Bool) :
    (v ||| bitWord b <<< n).toNat < 2 ^ (n + 1) := by
  rw [toNat_or_flag hv hn, pow_succ, mul_two]
  exact Nat.add_lt_add_of_lt_of_le hv (mul_le_of_le_one_right (Nat.zero_le _) (bit_le_one b))

/-- The CTRL image (10_state.md R28). -/
theorem toNat_ctrlWord (s : State) : s.ctrlWord.toNat = bit s.ie + 2 * bit s.eie := by
  rw [State.ctrlWord, toNat_or_flag (toNat_bitWord_lt _) (by decide), toNat_bitWord, pow_one]

/-- The STATUS image (10_state.md R27). -/
theorem toNat_statusWord (s : State) : s.statusWord.toNat =
    bit s.busy + 2 * bit s.done + 4 * bit s.modv + 8 * bit s.err + 16 * codeNumber s.ecode := by
  have hbusy := toNat_bitWord_lt s.busy
  have hdone := toNat_or_flag_lt hbusy (by decide) s.done
  have hmodv := toNat_or_flag_lt hdone (by decide) s.modv
  have herr := toNat_or_flag_lt hmodv (by decide) s.err
  have hcode := toNat_errNumber_lt s.ecode
  rw [State.statusWord, toNat_or_shiftLeft herr (by omega), toNat_or_flag hmodv (by decide),
    toNat_or_flag hdone (by decide), toNat_or_flag hbusy (by decide), toNat_bitWord, toNat_errNumber]
  rfl

/-- The PARAM image (10_state.md R31). -/
theorem toNat_paramWord (s : State) : s.paramWord.toNat = s.nw + 8 * 2 ^ 16 := by
  have hnw : s.nw ≤ 256 := s.nwIndex.isLt
  have htoNat : (BitVec.ofNat 32 s.nw).toNat = s.nw := by
    rw [BitVec.toNat_ofNat, Nat.mod_eq_of_lt (by omega)]
  rw [State.paramWord, toNat_or_shiftLeft (by omega) (by decide), htoNat]
  rfl

/-! ### The writes -/

theorem region_ctrl {a : Addr} (h : wordNumber a = 2) : region a = .ctrl := congrArg regionOfWord h

theorem region_status {a : Addr} (h : wordNumber a = 3) : region a = .status := congrArg regionOfWord h

theorem region_cmd {a : Addr} (h : wordNumber a = 4) : region a = .cmd := congrArg regionOfWord h

/-- A write to CTRL takes effect alike while idle and while a command is in flight (20_memory.md R56, R57). -/
theorem busWrite_ctrl {a : Addr} (h : wordNumber a = 2) (s : State) (v : Word) : s.busWrite a v = s.writeCtrl v := by
  simp only [State.busWrite, State.writeBusy, State.writeIdle, region_ctrl h, ite_self]

/-- A write to STATUS takes effect alike while idle and while a command is in flight (20_memory.md R56, R57). -/
theorem busWrite_status {a : Addr} (h : wordNumber a = 3) (s : State) (v : Word) :
    s.busWrite a v = s.writeStatus v := by
  simp only [State.busWrite, State.writeBusy, State.writeIdle, region_status h, ite_self]

/-- A write to CMD while idle issues the word (20_memory.md R56, 40_control.md R100). -/
theorem busWrite_cmd_of_idle {a : Addr} (h : wordNumber a = 4) {s : State} (hidle : s.busy = false) (v : Word) :
    s.busWrite a v = s.issue v := by
  simp only [State.busWrite, State.writeIdle, region_cmd h, hidle, Bool.false_eq_true, if_false]

/-- The write-one-to-clear bits of STATUS, as one update (10_state.md R27). -/
theorem writeStatus_eq (s : State) (v : Word) : s.writeStatus v =
    { s with
      done := if v.getLsbD 1 then false else s.done
      err := if v.getLsbD 3 then false else s.err
      ecode := if v.getLsbD 3 then .none else s.ecode
      errinfo := if v.getLsbD 3 then 0 else s.errinfo } := by
  cases hdone : v.getLsbD 1 <;> cases herr : v.getLsbD 3 <;> simp only [State.writeStatus, hdone, herr] <;> rfl

/-! ### The interrupt line and the reset values -/

/-- The interrupt line is a level of the state (10_state.md R34). -/
theorem irq_eq_true_iff (s : State) :
    s.irq = true ↔ (s.ie = true ∧ s.done = true) ∨ (s.eie = true ∧ s.err = true) := by
  rw [State.irq, Bool.or_eq_true, Bool.and_eq_true, Bool.and_eq_true]

@[simp] theorem resetOf_x (k : Fin 256) (i : Reg) : (State.resetOf k).x i = 0 := by
  simp [State.resetOf, State.x]

@[simp] theorem resetOf_statusWord (k : Fin 256) : (State.resetOf k).statusWord = 0#32 :=
  BitVec.eq_of_toNat_eq (toNat_statusWord _)

@[simp] theorem resetOf_ctrlWord (k : Fin 256) : (State.resetOf k).ctrlWord = 0#32 :=
  BitVec.eq_of_toNat_eq (toNat_ctrlWord _)

@[simp] theorem resetOf_irq (k : Fin 256) : (State.resetOf k).irq = false := rfl

/-! ### The obligations -/

/-- Settles O38: the image is a sum of fields, a write is the write-one-to-clear update whether or not a command is in
flight, and the engine's step is a completion. -/
theorem statusImageAndWrite : Obligations.StatusImageAndWrite := by
  refine ⟨toNat_statusWord, fun s a v ha => ?_, fun s a v hidle ha => ?_, fun s hbusy => ?_, fun s hinv herr => ?_,
    resetOf_statusWord⟩
  · rw [busWrite_status ha, writeStatus_eq]
  · rw [busWrite_cmd_of_idle ha hidle]
    exact ⟨rfl, rfl⟩
  · obtain ⟨t, ht, hcompleted⟩ := engine_completes_of_busy hbusy
    exact ⟨t, ht, hcompleted.idle, hcompleted.doneSet⟩
  · exact (hinv.errorClear herr).1

/-- Settles O37. -/
theorem interruptLineIsALevelOfState : Obligations.InterruptLineIsALevelOfState :=
  ⟨irq_eq_true_iff, resetOf_irq, resetOf_irq _⟩

/-- Settles O39: busy or not, the write is the same update of the two enables. -/
theorem controlImageAndWrite : Obligations.ControlImageAndWrite :=
  ⟨toNat_ctrlWord, fun s _ v ha => busWrite_ctrl ha s v, resetOf_ctrlWord⟩

/-- Settles O47: every field by its reset value, PARAM by its image. -/
theorem resetStateHasTheResetValues : Obligations.ResetStateHasTheResetValues := by
  refine ⟨?_, Config.resetNwIndex, rfl⟩
  rintro k s rfl
  exact ⟨resetOf_x k, rfl, rfl, rfl, rfl, resetOf_statusWord k, rfl, rfl, rfl, rfl, resetOf_ctrlWord k, rfl, rfl, rfl,
    rfl, resetOf_irq k, rfl, toNat_paramWord _, rfl⟩

end Sys2Proof.Proofs
end

section
/-!
PROOFS. The bus over the whole address map: what a read returns (20_memory.md R58) and what a write does while idle
(R56) and while a command is in flight (R57).
-/

namespace Sys2Proof.Proofs

open Sys2Proof.Machine Sys2Proof.Laws Sys2Proof.Claims

/-! ### The address map by word number -/

theorem region_id {a : Addr} (h : wordNumber a = 0) : region a = .id := congrArg regionOfWord h

theorem region_param {a : Addr} (h : wordNumber a = 1) : region a = .param := congrArg regionOfWord h

theorem region_errinfo {a : Addr} (h : wordNumber a = 5) : region a = .errinfo := congrArg regionOfWord h

/-- The word number of an X window without the division. -/
theorem xWord_eq (i : Reg) (j : Nat) : xWord i j = 0x400 + 0x100 * i.val + j := by
  rw [xWord]
  omega

theorem region_xWord {a : Addr} {i : Reg} {j : Nat} (hj : j < 256) (h : wordNumber a = xWord i j) :
    region a = .x i j := region_x i hj (h.trans (xWord_eq i j))

/-- The words from 0x1000 / 4 to 0x3000 / 4 are those of the X windows. -/
theorem region_x_of_range {a : Addr} (hlow : 0x400 ≤ wordNumber a) (hhigh : wordNumber a < 0xC00) :
    ∃ i j, region a = .x i j := by
  have hi : (wordNumber a - 0x400) / 256 < 8 := by omega
  have hword : wordNumber a = 0x400 + 0x100 * ((wordNumber a - 0x400) / 256) + wordNumber a % 256 := by omega
  exact ⟨⟨_, hi⟩, _, region_x _ (Nat.mod_lt _ (by decide)) hword⟩

theorem region_reserved_of_word {a : Addr} (h : (6 ≤ wordNumber a ∧ wordNumber a < 0x400) ∨ 0xF00 ≤ wordNumber a) :
    region a = .reserved := by
  rw [wordNumber] at h
  exact region_reserved (by omega)

/-- The regions on which a write has no effect, busy or not (20_memory.md R56, R57). -/
def ReadOnly : Region → Prop
  | .ctrl | .status | .cmd | .x _ _ => False
  | .id | .param | .errinfo | .modulus _ | .nprime _ | .r2 _ | .reserved => True

/-- Every word but CTRL, STATUS, CMD and those of the X windows is read-only. -/
theorem region_readOnly {a : Addr}
    (h : wordNumber a < 2 ∨ (5 ≤ wordNumber a ∧ wordNumber a < 0x400) ∨ 0xC00 ≤ wordNumber a) :
    ReadOnly (region a) := by
  obtain hid | hparam | herrinfo | ⟨hbands, hnotX⟩ : wordNumber a = 0 ∨ wordNumber a = 1 ∨ wordNumber a = 5 ∨
      6 ≤ wordNumber a ∧ (wordNumber a < 0x400 ∨ 0xC00 ≤ wordNumber a) := by omega
  · rw [region_id hid]; trivial
  · rw [region_param hparam]; trivial
  · rw [region_errinfo herrinfo]; trivial
  · change ReadOnly (regionOfWord (wordNumber a))
    rw [regionOfWord_bands hbands]
    split_ifs with hreserved hx
    · trivial
    · omega
    all_goals trivial

/-! ### Words and bits of a value -/

theorem toNat_windowWord (s : State) (v j : Nat) : (s.windowWord v j).toNat = bitsOf s v j := by
  rw [State.windowWord, bitsOf, wordOf, apply_ite BitVec.toNat, BitVec.toNat_ofNat]
  rfl

/-- A replaced word gives its own bits, and every other bit is the old value's (20_memory.md R56). -/
theorem testBit_replaceWord (v j : Nat) (w : Word) (b : Nat) :
    (replaceWord v j w).testBit b =
      if 32 * j ≤ b ∧ b ≤ 32 * j + 31 then w.getLsbD (b - 32 * j) else v.testBit b := by
  have hlow : v % 2 ^ (32 * j) < 2 ^ (32 * j) := Nat.mod_lt _ (Nat.two_pow_pos _)
  rw [replaceWord_eq, Nat.testBit_two_pow_mul_add _ hlow, Nat.testBit_two_pow_mul_add _ w.isLt,
    Nat.testBit_mod_two_pow, Nat.testBit_div_two_pow]
  by_cases hbelow : b < 32 * j
  · rw [if_pos hbelow, if_neg (by omega), decide_eq_true hbelow, Bool.true_and]
  · rw [if_neg hbelow]
    by_cases hword : b - 32 * j < 32
    · rw [if_pos hword, if_pos (by omega), BitVec.testBit_toNat]
    · rw [if_neg hword, if_neg (by omega)]
      congr 1
      omega

/-! ### Reads -/

/-- What a read returns does not depend on the cycles to come. -/
theorem busRead_inputs (s : State) (cs : List Cycle) (a : Addr) :
    State.busRead { s with inputs := cs } a = s.busRead a := rfl

/-- A cycle that presents a transaction and nothing else is that transaction. -/
theorem cycle_busCycle (s : State) (t : Transaction) : s.cycle (busCycle t) = .next (s.transact t) := by
  simp only [State.cycle, busCycle, State.transactIn, Bool.and_false, Bool.false_eq_true, if_false]

theorem step_of_busCycle {s : State} {t : Transaction} {cs : List Cycle} (h : s.inputs = busCycle t :: cs) :
    step s = .next (State.transact { s with inputs := cs } t) := by
  rw [step_of_cons h, cycle_busCycle]

/-- A read transaction takes its cycle from the inputs and logs its data; nothing else changes (20_memory.md R58). -/
theorem step_of_read {s : State} {a : Addr} {cs : List Cycle} (h : s.inputs = busCycle (.read a) :: cs) :
    step s = .next { s with inputs := cs, readLog := s.busRead a :: s.readLog } := by
  rw [step_of_busCycle h, State.transact, State.logRead, busRead_inputs]

/-! ### Writes -/

theorem busWrite_of_busy {s : State} (h : s.busy = true) (a : Addr) (v : Word) :
    s.busWrite a v = s.writeBusy a v := if_pos h

theorem busWrite_of_idle {s : State} (h : s.busy = false) (a : Addr) (v : Word) :
    s.busWrite a v = s.writeIdle a v := by
  rw [State.busWrite, h, if_neg Bool.false_ne_true]

/-- A write to a read-only region has no effect, busy or not. -/
theorem busWrite_readOnly {a : Addr} (h : ReadOnly (region a)) (s : State) (v : Word) : s.busWrite a v = s := by
  rw [State.busWrite, State.writeBusy, State.writeIdle]
  cases hr : region a with
  | ctrl | status | cmd | x => rw [hr] at h; exact h.elim
  | id | param | errinfo | modulus | nprime | r2 | reserved => exact ite_self s

/-- A write to an X window while idle replaces a word that the register has, and does nothing beyond (20_memory.md
R56). -/
theorem busWrite_x_of_idle {a : Addr} {i : Reg} {j : Nat} (h : region a = .x i j) {s : State} (hidle : s.busy = false)
    (v : Word) : s.busWrite a v = if j < s.nw then s.setX i (replaceWord (s.x i) j v) else s := by
  simp only [busWrite_of_idle hidle, State.writeIdle, h]

/-- A write to CMD or to an X window while a command is in flight is rejected (20_memory.md R57). -/
theorem busWrite_rejected {a : Addr} (h : region a = .cmd ∨ ∃ i j, region a = .x i j) {s : State}
    (hbusy : s.busy = true) (v : Word) : s.busWrite a v = s.rejectWrite a := by
  rw [busWrite_of_busy hbusy]
  obtain hcmd | ⟨i, j, hx⟩ := h
  · simp only [State.writeBusy, hcmd]
  · simp only [State.writeBusy, hx]

/-- A rejection records BUSY with the zero-extended address, unless an error is recorded already (20_memory.md
R57). -/
theorem rejectWrite_eq (s : State) (a : Addr) : s.rejectWrite a =
    if s.err then s else { s with err := true, ecode := .busy, errinfo := BitVec.ofNat 32 a.toNat } := by
  rw [State.rejectWrite, State.recordError, BitVec.ofNat_toNat]

/-! ### The obligations -/

/-- Settles O40: each band of the map by the region it names, the images by their sums of fields, and a read cycle as
that read transaction alone. -/
theorem readsReturnTheMapAndChangeNothing : Obligations.ReadsReturnTheMapAndChangeNothing := by
  refine ⟨fun s a => ⟨fun h => ?id, fun h => ?param, fun h => ?ctrl, fun h => ?status, fun h => ?cmd,
    fun h => ?errinfo, fun i j hj h => ?x, fun j hj h => ?modulus, fun j hj h => ?nprime, fun j hj h => ?r2,
    fun h => ?reserved⟩, fun s a cs h => step_of_read h⟩
  case id => simp only [State.busRead, region_id h, Config.idWord]
  case param => simp only [State.busRead, region_param h, toNat_paramWord]
  case ctrl => simp only [State.busRead, region_ctrl h, toNat_ctrlWord]
  case status => simp only [State.busRead, region_status h, toNat_statusWord]
  case cmd => simp only [State.busRead, region_cmd h]
  case errinfo => simp only [State.busRead, region_errinfo h]
  case x => simp only [State.busRead, region_xWord hj h, toNat_windowWord]
  case modulus => simp only [State.busRead, region_modulus hj h, toNat_windowWord]
  case nprime => simp only [State.busRead, region_nprime hj h, toNat_windowWord]
  case r2 => simp only [State.busRead, region_r2 hj h, toNat_windowWord]
  case reserved => simp only [State.busRead, region_reserved_of_word h]

/-- Settles O41: the control words by the update each makes, a register word by the bits of the replaced value, and
every other address as read-only. -/
theorem idleWritesHaveExactlyTheirEffect : Obligations.IdleWritesHaveExactlyTheirEffect := by
  intro s a v hidle
  refine ⟨fun h => busWrite_ctrl h s v, fun h => (busWrite_status h s v).trans (writeStatus_eq s v),
    fun h => busWrite_cmd_of_idle h hidle v, fun i j hj h => ?_, fun h => busWrite_readOnly (region_readOnly h) s v⟩
  rw [busWrite_x_of_idle (region_xWord hj h) hidle]
  constructor
  · intro hword
    rw [if_pos hword, setX_x_self]
    exact ⟨rfl, fun k hk => setX_x_ne s _ hk, testBit_replaceWord _ j v⟩
  · intro hbeyond
    exact if_neg (Nat.not_lt.mpr hbeyond)

/-- Settles O42: CMD and the X windows are the regions that reject, CTRL and STATUS are written as while idle, and
every other address is read-only. -/
theorem busyWritesAreRejectedOrHarmless : Obligations.BusyWritesAreRejectedOrHarmless := by
  intro s a v hbusy
  refine ⟨fun h => ?_, fun h => busWrite_ctrl h s v, fun h => (busWrite_status h s v).trans (writeStatus_eq s v),
    fun h => busWrite_readOnly (region_readOnly h) s v⟩
  have hregion : region a = .cmd ∨ ∃ i j, region a = .x i j :=
    h.imp region_cmd fun ⟨hlow, hhigh⟩ => region_x_of_range hlow hhigh
  rw [busWrite_rejected hregion hbusy, rejectWrite_eq]

end Sys2Proof.Proofs
end

section
/-!
PROOFS. The decoder against the table of 30_encoding.md R83: a word decodes exactly when it passes the opcode, mask and
group checks of R84, to its opcode's command, and every other word completes with BADCMD.
-/

namespace Sys2Proof.Proofs

open Sys2Proof.Machine Sys2Proof.Laws Sys2Proof.Claims

/-! ### The fields of a word as numbers -/

/-- The bits a field takes are the number that 00_scope.md R11 gives them. -/
theorem field_eq_toNat (c : Word) (hi lo : Nat) : field c hi lo = (c.extractLsb' lo (hi - lo + 1)).toNat := by
  rw [field, BitVec.extractLsb'_toNat, Nat.shiftRight_eq_div_pow]

theorem op_eq (c : Word) : op c = (opField c).toNat := field_eq_toNat c 4 0

theorem field_rd (c : Word) : field c 7 5 = (regOf (rdField c)).val := field_eq_toNat c 7 5

theorem field_rs1 (c : Word) : field c 10 8 = (regOf (rs1Field c)).val := field_eq_toNat c 10 8

theorem field_rs2 (c : Word) : field c 13 11 = (regOf (rs2Field c)).val := field_eq_toNat c 13 11

theorem field_imm (c : Word) : field c 31 16 = (immField c).toNat := field_eq_toNat c 31 16

/-- OP is a 5-bit field (30_encoding.md R80). -/
theorem op_lt (c : Word) : op c < 32 := Nat.mod_lt _ (by decide)

/-- The command of R84 is the one of the word's own fields. -/
theorem commandOfWord_eq (c : Word) : commandOfWord c =
    commandAt (regOf (rdField c)) (regOf (rs1Field c)) (regOf (rs2Field c)) (immField c) (op c) := by
  rw [commandOfWord, field_rd, field_rs1, field_rs2, field_imm, Fin.ofNat_val_eq_self, Fin.ofNat_val_eq_self,
    Fin.ofNat_val_eq_self, BitVec.ofNat_toNat, BitVec.setWidth_eq]

/-! ### The fields a command uses -/

/-- Which of RD, RS1, RS2 and IMM a command uses (30_encoding.md R83). -/
structure FieldUse where
  rd : Bool
  rs1 : Bool
  rs2 : Bool
  imm : Bool

/-- The fields of each command (30_encoding.md R83); `decode_of_command` ties it to the decoder. -/
def fieldUse : Instr → FieldUse
  | .nop => ⟨false, false, false, false⟩
  | .setmod _ => ⟨false, true, false, false⟩
  | .copy _ _ | .bitlen _ _ | .tomont _ _ | .frommont _ _ | .reduce _ _ => ⟨true, true, false, false⟩
  | .powchk _ _ _ => ⟨true, true, false, true⟩
  | .rsachk _ _ _ _ | .blkchk _ _ _ _ => ⟨true, true, true, true⟩
  | _ => ⟨true, true, true, false⟩

/-- RSV and every field that is not used are 0 (30_encoding.md R87). -/
structure UnusedClear (u : FieldUse) (c : Word) : Prop where
  rsv : rsvField c = 0#2
  rd : u.rd = false → rdField c = 0#3
  rs1 : u.rs1 = false → rs1Field c = 0#3
  rs2 : u.rs2 = false → rs2Field c = 0#3
  imm : u.imm = false → immField c = 0#16

/-- The checks pass exactly on a word with nothing in its unused fields, for a command whose group fits. -/
theorem checked_eq_ok_iff (c : Word) (u : FieldUse) (i j : Instr) :
    checked c u.rd u.rs1 u.rs2 u.imm i = .ok j ↔ UnusedClear u c ∧ i.wellFormed = true ∧ i = j := by
  obtain ⟨d, a, b, m⟩ := u
  constructor
  · intro h
    unfold checked at h
    split_ifs at h with hrsv hrd hrs1 hrs2 himm hwf
    simp only [ne_eq, not_not, Bool.and_eq_true, Bool.not_eq_true', bne_iff_ne, not_and] at hrsv hrd hrs1 hrs2 himm
    exact ⟨⟨hrsv, hrd, hrs1, hrs2, himm⟩, hwf, Except.ok.inj h⟩
  · rintro ⟨⟨hrsv, hrd, hrs1, hrs2, himm⟩, hwf, rfl⟩
    rw [checked, if_neg (not_not.mpr hrsv), if_neg (by simpa using hrd), if_neg (by simpa using hrs1),
      if_neg (by simpa using hrs2), if_neg (by simpa using himm), if_pos hwf]

/-- A word with an opcode of the table decodes by the checks for the fields of that opcode's command. -/
theorem decode_of_command {c : Word} {i : Instr} (h : commandOfWord c = some i) :
    decode c = checked c (fieldUse i).rd (fieldUse i).rs1 (fieldUse i).rs2 (fieldUse i).imm i := by
  have hlt := op_lt c
  rw [commandOfWord_eq] at h
  rw [op_eq] at h hlt
  unfold decode
  generalize (opField c).toNat = n at h hlt
  interval_cases n <;> cases h <;> rfl

/-- The opcodes outside the table are the reserved ones (30_encoding.md R82, R85). -/
theorem commandOfWord_eq_none_iff (c : Word) : commandOfWord c = none ↔ op c ∈ reservedOps := by
  have hlt := op_lt c
  rw [commandOfWord]
  generalize op c = n at hlt
  interval_cases n <;> simp [commandAt, reservedOps]

theorem decode_of_reserved {c : Word} (h : op c ∈ reservedOps) : decode c = .error .reservedOpcode := by
  rw [op_eq] at h
  unfold decode
  generalize (opField c).toNat = n at h
  simp only [reservedOps, List.mem_cons, List.not_mem_nil, or_false] at h
  rcases h with rfl | rfl | rfl | rfl | rfl | rfl | rfl | rfl | rfl | rfl | rfl | rfl <;> rfl

/-! ### The masks -/

/-- The bits `[lo+len−1 : lo]` of a word. -/
def fieldMask (lo len : Nat) : Word := (BitVec.allOnes len).setWidth 32 <<< lo

/-- The mask of R83: OP, RSV and the fields that are not used. -/
def FieldUse.mask (u : FieldUse) : Word :=
  fieldMask 0 5 ||| (fieldMask 14 2 ||| (if u.rd then 0#32 else fieldMask 5 3) |||
    (if u.rs1 then 0#32 else fieldMask 8 3) ||| (if u.rs2 then 0#32 else fieldMask 11 3) |||
    (if u.imm then 0#32 else fieldMask 16 16))

/-- A masked field is 0 exactly when the field is. -/
theorem and_fieldMask_eq_zero_iff (c : Word) (lo len : Nat) (hfit : lo + len ≤ 32) :
    c &&& fieldMask lo len = 0#32 ↔ c.extractLsb' lo len = 0#len := by
  constructor
  · intro h
    ext i hi
    have hbit := congrArg (·.getLsbD (lo + i)) h
    simpa [fieldMask, hi, show lo + i < 32 by omega, show i < 32 by omega] using hbit
  · intro h
    ext i hi
    have hbit := congrArg (·.getLsbD (i - lo)) h
    simp only [BitVec.getLsbD_extractLsb', BitVec.getLsbD_zero, Bool.and_eq_false_imp, decide_eq_true_eq] at hbit
    simp only [fieldMask, BitVec.getElem_and, BitVec.getElem_shiftLeft]
    grind

theorem and_unused_eq_zero_iff (c : Word) (used : Bool) (lo len : Nat) (hfit : lo + len ≤ 32) :
    c &&& (if used then 0#32 else fieldMask lo len) = 0#32 ↔ (used = false → c.extractLsb' lo len = 0#len) := by
  cases used <;> simp [and_fieldMask_eq_zero_iff c lo len hfit]

/-- Further mask bits leave the masked word as it is exactly when the word is 0 in them. -/
theorem and_or_eq_and_left_iff {a b : Word} (hdisjoint : a &&& b = 0#32) (c : Word) :
    c &&& (a ||| b) = c &&& a ↔ c &&& b = 0#32 := by
  constructor
  · intro h
    calc c &&& b = c &&& (a ||| b) &&& b := by ext; grind
      _ = c &&& a &&& b := by rw [h]
      _ = 0#32 := by rw [BitVec.and_assoc, hdisjoint, BitVec.and_zero]
  · intro h
    rw [BitVec.and_or_distrib_left, h, BitVec.or_zero]

/-- The match of every row of R83 is the opcode, so it is what the mask leaves of the OP field. -/
theorem ofNat_op (c : Word) : BitVec.ofNat 32 (op c) = c &&& fieldMask 0 5 := by
  apply BitVec.eq_of_toNat_eq
  rw [BitVec.toNat_and, BitVec.toNat_ofNat, Nat.mod_eq_of_lt ((op_lt c).trans (by decide)), op, field, pow_zero,
    Nat.div_one]
  exact (Nat.and_two_pow_sub_one_eq_mod c.toNat 5).symm

/-- The mask check of R84 is the check of R87. -/
theorem and_mask_eq_op_iff (u : FieldUse) (c : Word) :
    c &&& u.mask = BitVec.ofNat 32 (op c) ↔ UnusedClear u c := by
  rw [ofNat_op, FieldUse.mask, and_or_eq_and_left_iff]
  · simp only [BitVec.and_or_distrib_left, BitVec.or_eq_zero_iff, and_unused_eq_zero_iff, and_fieldMask_eq_zero_iff,
      Nat.reduceAdd, Nat.reduceLeDiff, and_assoc]
    exact ⟨fun ⟨hrsv, hrd, hrs1, hrs2, himm⟩ => ⟨hrsv, hrd, hrs1, hrs2, himm⟩,
      fun ⟨hrsv, hrd, hrs1, hrs2, himm⟩ => ⟨hrsv, hrd, hrs1, hrs2, himm⟩⟩
  · obtain ⟨d, a, b, m⟩ := u
    revert d a b m
    decide

/-- The masks of the table of R83 are those of the fields each command does not use. -/
theorem maskOf_of_commandAt {rd rs1 rs2 : Reg} {imm : Imm} {n : Nat} {i : Instr}
    (h : commandAt rd rs1 rs2 imm n = some i) : maskOf n = (fieldUse i).mask := by
  unfold commandAt at h
  split at h <;> cases h <;> simp only [fieldUse] <;> decide

/-- The group checks of R84 in its order: XGCD, CRTSIGN, VERIFY; the command of any other opcode has no group. -/
theorem wellFormed_commandAt_iff {rd rs1 rs2 : Reg} {imm : Imm} {n : Nat} {i : Instr}
    (h : commandAt rd rs1 rs2 imm n = some i) : i.wellFormed = true ↔
      ¬ (n = 0x12 ∧ 5 < rd.val) ∧ ¬ (n = 0x18 ∧ 3 < rs2.val) ∧ ¬ (n = 0x19 ∧ 5 < rs2.val) := by
  unfold commandAt at h
  split at h <;> cases h <;> simp [Instr.wellFormed, groupFits]

/-! ### What the decoder accepts and refuses -/

/-- The checks of R84 accept exactly the words that decode, each to the command of its opcode. -/
theorem accepted_iff (c : Word) : Accepted c ↔ ∃ i, commandOfWord c = some i ∧ decode c = .ok i := by
  rw [Accepted, ← commandOfWord_eq_none_iff]
  cases hi : commandOfWord c with
  | none => simp
  | some i =>
    have hat := (commandOfWord_eq c).symm.trans hi
    rw [maskOf_of_commandAt hat, and_mask_eq_op_iff, field_rd, field_rs2, ← wellFormed_commandAt_iff hat,
      decode_of_command hi]
    simp [checked_eq_ok_iff]

/-- A word in flight that does not decode completes with BADCMD. -/
theorem completesWithBadcmd_of_error {c : Word} {e : DecodeError} (h : decode c = .error e) :
    CompletesWithBadcmd c := by
  intro s hs
  rw [engine_of_inflight hs]
  exact completeWord_badcmd_fails h

/-- The decoder answers no other command than the one of the word's opcode. -/
theorem commandOfWord_of_decode {c : Word} {i : Instr} (h : decode c = .ok i) : commandOfWord c = some i := by
  cases hj : commandOfWord c with
  | none =>
    rw [decode_of_reserved ((commandOfWord_eq_none_iff c).mp hj)] at h
    cases h
  | some j =>
    rw [decode_of_command hj, checked_eq_ok_iff] at h
    obtain ⟨-, -, rfl⟩ := h
    rfl

/-! ### The words of the commands -/

/-- The fields of a command's word are the command's own. -/
theorem commandOfWord_encode (i : Instr) : commandOfWord (encode i) = some i := by
  rw [commandOfWord_eq, op_eq]
  cases i <;> simp [encode, commandAt]

theorem unusedClear_encode (i : Instr) : UnusedClear (fieldUse i) (encode i) := by
  cases i <;> constructor <;> simp [encode, fieldUse]

theorem decode_encode_of_wellFormed {i : Instr} (h : i.wellFormed = true) : decode (encode i) = .ok i := by
  rw [decode_of_command (commandOfWord_encode i), checked_eq_ok_iff]
  exact ⟨unusedClear_encode i, h, rfl⟩

/-- The word of a command whose group does not fit is illegal (30_encoding.md R86). -/
theorem completesWithBadcmd_encode {i : Instr} (h : i.wellFormed = false) : CompletesWithBadcmd (encode i) := by
  cases hd : decode (encode i) with
  | error e => exact completesWithBadcmd_of_error hd
  | ok j =>
    rw [decode_of_command (commandOfWord_encode i), checked_eq_ok_iff, h] at hd
    obtain ⟨-, hfalse, -⟩ := hd
    cases hfalse

/-- A command whose group ends at a register has a legal word, and the group does not wrap (30_encoding.md R86). -/
theorem group_legal {i : Instr} {base : Reg} {k : Nat} (hgroup : i.wellFormed = groupFits base (k + 1))
    (h : base.val + k < 8) : decode (encode i) = .ok i ∧ (member base k).val = base.val + k :=
  ⟨decode_encode_of_wellFormed (hgroup.trans (decide_eq_true h)), Nat.mod_eq_of_lt h⟩

/-- A command whose group would end beyond X7 has an illegal word (30_encoding.md R86). -/
theorem group_illegal {i : Instr} {base : Reg} (k : Nat) (hgroup : i.wellFormed = groupFits base (k + 1))
    (h : 8 ≤ base.val + k) : CompletesWithBadcmd (encode i) :=
  completesWithBadcmd_encode (hgroup.trans (decide_eq_false (Nat.not_lt.mpr h)))

/-! ### The obligations -/

/-- Settles O1: each command of the table has a fitting group and the word beside it, which decodes back. -/
theorem workedEncodingsDecodeAndEncode : Obligations.WorkedEncodingsDecodeAndEncode := by
  intro p hp
  have hrow : encode p.2 = p.1 ∧ p.2.wellFormed = true := by
    revert p
    decide
  obtain ⟨hword, hwf⟩ := hrow
  exact ⟨hword ▸ decode_encode_of_wellFormed hwf, hword⟩

/-- Settles O4: acceptance is decoding to the opcode's command, and a word that does not decode is BADCMD. -/
theorem decoderAcceptsExactlyTheTable : Obligations.DecoderAcceptsExactlyTheTable := by
  intro c
  refine ⟨(accepted_iff c).mp, fun hrefused => ?_⟩
  cases hd : decode c with
  | ok i => exact absurd ((accepted_iff c).mpr ⟨i, commandOfWord_of_decode hd, hd⟩) hrefused
  | error e => exact completesWithBadcmd_of_error hd

/-- Settles O5: a reserved opcode is one of the words that do not decode. -/
theorem reservedOpcodesCompleteWithBadcmd : Obligations.ReservedOpcodesCompleteWithBadcmd :=
  ⟨fun _ h => completesWithBadcmd_of_error (decode_of_reserved h), fun _ _ h => completesWithBadcmd_of_error h⟩

/-- Settles O6: the group of each of the three commands fits exactly up to the stated base. -/
theorem groupBasesStayInsideTheRegisters : Obligations.GroupBasesStayInsideTheRegisters := by
  intro rd rs1 rs2
  exact ⟨fun h => group_legal rfl (by omega), fun h => group_illegal 2 rfl (by omega),
    fun h => group_legal rfl (by omega), fun h => group_illegal 4 rfl (by omega),
    fun h => group_legal rfl (by omega), fun h => group_illegal 2 rfl (by omega)⟩

end Sys2Proof.Proofs
end

section
/-!
PROOFS. The issue of a command (40_control.md R100) and the helper commands NOP, COPY, CMPEQ, MUL and BITLEN (R103 to
R107). The first lemmas read a statement about a command off the completion that `exec` ends in.
-/

namespace Sys2Proof.Proofs

open Sys2Proof.Machine Sys2Proof.Laws Sys2Proof.Claims

/-! ### From a completion to the statement about its command -/

/-- The words of every opcode decode as the table says (30_encoding.md R84). -/
theorem formatOf (n : Nat) : FormatOf n := fun c _ => decoderAcceptsExactlyTheTable c

theorem runs_succeeds_of_complete {i : Instr} {s : State} (h : exec i s = s.complete) :
    Runs i s fun t => State.Succeeds [] s t := by
  rw [Runs, h]
  exact complete_succeeds s

theorem writes_of_complete_setX {i : Instr} {s : State} {rd : Reg} {v : Nat} (h : exec i s = (s.setX rd v).complete) :
    Writes i s rd v := by
  rw [Writes, Runs, h]
  exact complete_setX_succeeds s rd v

theorem errs_of_raise {i : Instr} {s : State} {code : ErrCode} (h : exec i s = s.raise code i) : Errs i s code := by
  intro c hc
  rw [Runs, h]
  exact raise_fails hc code i

/-- The register value of a test command is the verdict of the proposition that the test decides. -/
theorem isVerdict_verdict {P : Prop} {b : Bool} (h : b = true ↔ P) : IsVerdict P (verdict b) :=
  ⟨fun hp => if_pos (h.mpr hp), fun hp => if_neg (mt h.mp hp)⟩

/-! ### The meanings of the helper commands -/

theorem exec_nop (s : State) : exec .nop s = s.complete := rfl

theorem exec_copy (rd rs1 : Reg) (s : State) : exec (.copy rd rs1) s = (s.setX rd (s.x rs1)).complete := rfl

theorem exec_cmpeq (rd rs1 rs2 : Reg) (s : State) :
    exec (.cmpeq rd rs1 rs2) s = (s.setX rd (verdict (s.x rs1 == s.x rs2))).complete := rfl

theorem exec_bitlen (rd rs1 : Reg) (s : State) :
    exec (.bitlen rd rs1) s = (s.setX rd (bitlen (s.x rs1))).complete := rfl

/-- A product that fits is written (40_control.md R106). -/
theorem exec_mul_of_lt {s : State} {rs1 rs2 : Reg} (h : s.x rs1 * s.x rs2 < s.radix) (rd : Reg) :
    exec (.mul rd rs1 rs2) s = (s.setX rd (s.x rs1 * s.x rs2)).complete := by
  rw [exec, execMul]
  exact if_neg (Nat.not_le.mpr h)

/-- A product that does not fit raises OVERFLOW (40_control.md R106). -/
theorem exec_mul_of_le {s : State} {rs1 rs2 : Reg} (h : s.radix ≤ s.x rs1 * s.x rs2) (rd : Reg) :
    exec (.mul rd rs1 rs2) s = s.raise .overflow (.mul rd rs1 rs2) := by
  rw [exec, execMul]
  exact if_pos h

/-! ### The word of NOP -/

/-- The mask of NOP covers the whole word, so its one legal word is 0 (40_control.md R103). -/
theorem accepted_iff_eq_zero {c : Word} (h : op c = 0x00) : Accepted c ↔ c = 0x00000000#32 := by
  have hmask : c &&& maskOf 0x00 = c := BitVec.and_allOnes
  rw [Accepted, h, hmask]
  simp [reservedOps]

theorem decode_zero : decode 0x00000000#32 = .ok .nop := decode_encode_of_wellFormed (i := .nop) rfl

/-- With the word 0 in flight, the engine's step is the end of a completion and nothing else. -/
theorem engine_of_nop {s : State} (h : s.inflight = some 0x00000000#32) : s.engine = .next s.retire := by
  rw [engine_of_inflight h, State.completeWord, decode_zero]
  exact exec_nop s

/-! ### Bit length -/

theorem bitlen_zero : bitlen 0 = 0 := rfl

theorem bitlen_pos {v : Nat} (h : v ≠ 0) : 0 < bitlen v := by
  rw [bitlen, if_neg h]
  exact Nat.succ_pos _

/-- A number other than 0 does not fit one bit less than its bit length. -/
theorem two_pow_pred_bitlen_le {v : Nat} (h : v ≠ 0) : 2 ^ (bitlen v - 1) ≤ v := by
  have hpos := bitlen_pos h
  rw [← Nat.not_lt, ← bitlen_le_iff]
  omega

/-! ### Writes to CMD -/

theorem wordNumber_cmd : wordNumber 0x0010#16 = 4 := rfl

/-- Whether a command is in flight does not depend on the cycles to come. -/
theorem busy_inputs (s : State) (cs : List Cycle) : State.busy { s with inputs := cs } = s.busy := rfl

/-- The cycle of a CMD write while idle issues the word (40_control.md R100). -/
theorem step_of_cmdWrite_of_idle {s : State} {c : Word} {cs : List Cycle}
    (h : s.inputs = busCycle (.write 0x0010#16 c) :: cs) (hidle : s.busy = false) :
    step s = .next (State.issue { s with inputs := cs } c) := by
  rw [step_of_busCycle h, State.transact, busWrite_cmd_of_idle wordNumber_cmd ((busy_inputs s cs).trans hidle)]

/-- The cycle of a CMD write while a command is in flight rejects the write (20_memory.md R57). -/
theorem step_of_cmdWrite_of_busy {s : State} {c : Word} {cs : List Cycle}
    (h : s.inputs = busCycle (.write 0x0010#16 c) :: cs) (hbusy : s.busy = true) :
    step s = .next (State.rejectWrite { s with inputs := cs } 0x0010#16) := by
  rw [step_of_busCycle h, State.transact,
    busWrite_rejected (.inl (region_cmd wordNumber_cmd)) ((busy_inputs s cs).trans hbusy)]

/-! ### The obligations -/

/-- Settles O12. -/
theorem copyCopiesTheRegister : Obligations.CopyCopiesTheRegister :=
  ⟨formatOf _, fun rd rs1 s => writes_of_complete_setX (exec_copy rd rs1 s)⟩

/-- Settles O13: what is written is the verdict of the comparison. -/
theorem cmpeqComparesAllBits : Obligations.CmpeqComparesAllBits :=
  ⟨formatOf _, fun rd rs1 rs2 s => ⟨_, writes_of_complete_setX (exec_cmpeq rd rs1 rs2 s), isVerdict_verdict beq_iff_eq⟩⟩

/-- Settles O14: the product is below 2^W and written, or not and OVERFLOW. -/
theorem mulIsExactOrOverflows : Obligations.MulIsExactOrOverflows :=
  ⟨formatOf _, fun rd _ _ _ =>
    ⟨fun hfits => writes_of_complete_setX (exec_mul_of_lt hfits rd),
      fun hover => errs_of_raise (exec_mul_of_le hover rd)⟩⟩

/-- Settles O15: the bounds of the bit length, and `bitlen v ≤ W` for a `v` that fits W bits. -/
theorem bitlenCountsTheBits : Obligations.BitlenCountsTheBits := by
  refine ⟨formatOf _, fun rd rs1 s => ⟨bitlen (s.x rs1), writes_of_complete_setX (exec_bitlen rd rs1 s), ?_, ?_, ?_⟩⟩
  · intro hzero
    rw [hzero, bitlen_zero]
  · intro hne
    exact ⟨bitlen_pos hne, two_pow_pred_bitlen_le hne, lt_two_pow_bitlen _⟩
  · exact (bitlen_le_iff _ _).mpr

/-- Settles O11: the mask leaves one word, the meaning is the completion alone, and from reset only DONE is left set. -/
theorem nopOnlyCompletes : Obligations.NopOnlyCompletes :=
  ⟨formatOf _, fun _ => accepted_iff_eq_zero, fun s => runs_succeeds_of_complete (exec_nop s),
    fun _ => ⟨_, engine_of_nop (issue_inflight _ _), BitVec.eq_of_toNat_eq (toNat_statusWord _)⟩⟩

/-- Settles O45: a write that issues, or a rejection that at most records BUSY. -/
theorem cmdWriteIssuesWhileIdle : Obligations.CmdWriteIssuesWhileIdle := by
  intro s c cs h
  constructor
  · intro hidle
    exact ⟨_, step_of_cmdWrite_of_idle h hidle, rfl, issue_busy _ c⟩
  · intro hbusy
    exact ⟨_, step_of_cmdWrite_of_busy h hbusy, recordError_inflight .., recordError_done ..⟩

end Sys2Proof.Proofs
end

section
/-!
PROOFS. The Montgomery core SETMOD, MONTMUL, MODMUL, TOMONT, FROMMONT and REDUCE (41_montgomery.md R120 to R129). The
order of checks of R126 is proved once, for any command with these checks; the arithmetic is that of `Rinv`.
-/

namespace Sys2Proof.Proofs

open Sys2Proof.Machine Sys2Proof.Laws Sys2Proof.Claims

/-! ### The order of checks (41_montgomery.md R126) -/

/-- `i` needs a loaded modulus, then every one of `operands` below MOD, and then writes `v` to X[rd]
(41_montgomery.md R126). A command without a range check has no operands to check. -/
def ChecksThenWrites (i : Instr) (s : State) (operands : List Nat) (rd : Reg) (v : Nat) : Prop :=
  exec i s = s.withModulus i (s.withInDomain operands i (s.setX rd v).complete)

theorem checks_montmul (rd rs1 rs2 : Reg) (s : State) : ChecksThenWrites (.montmul rd rs1 rs2) s
    [s.x rs1, s.x rs2] rd (montProd s.radix s.modulus (s.x rs1) (s.x rs2)) := rfl

theorem checks_modmul (rd rs1 rs2 : Reg) (s : State) : ChecksThenWrites (.modmul rd rs1 rs2) s
    [s.x rs1, s.x rs2] rd (s.x rs1 * s.x rs2 % s.modulus) := rfl

theorem checks_tomont (rd rs1 : Reg) (s : State) : ChecksThenWrites (.tomont rd rs1) s
    [s.x rs1] rd (s.x rs1 * s.radix % s.modulus) := rfl

theorem checks_frommont (rd rs1 : Reg) (s : State) : ChecksThenWrites (.frommont rd rs1) s
    [s.x rs1] rd (s.x rs1 * rInv s.radix s.modulus % s.modulus) := rfl

theorem checks_reduce (rd rs1 : Reg) (s : State) : ChecksThenWrites (.reduce rd rs1) s
    [] rd (s.x rs1 % s.modulus) := rfl

theorem checks_modexp (rd rs1 rs2 : Reg) (s : State) : ChecksThenWrites (.modexp rd rs1 rs2) s
    [] rd (powMod (s.x rs1 % s.modulus) (s.x rs2) s.modulus) := rfl

section Checks

variable {i : Instr} {s : State} {operands : List Nat} {rd : Reg} {v : Nat}

theorem ChecksThenWrites.errs_nomod (h : ChecksThenWrites i s operands rd v) (hmodv : s.modv = false) :
    Errs i s .nomod :=
  errs_of_raise (h.trans (withModulus_of_not_modv hmodv ..))

theorem ChecksThenWrites.errs_domain (h : ChecksThenWrites i s operands rd v) (hmodv : s.modv = true)
    (hout : ∃ a ∈ operands, s.modulus ≤ a) : Errs i s .domain := by
  obtain ⟨a, ha, hle⟩ := hout
  exact errs_of_raise ((h.trans (withModulus_of_modv hmodv ..)).trans (withInDomain_of_le ha hle ..))

theorem ChecksThenWrites.exec_eq (h : ChecksThenWrites i s operands rd v) (hmodv : s.modv = true)
    (hin : ∀ a ∈ operands, a < s.modulus) : exec i s = (s.setX rd v).complete :=
  (h.trans (withModulus_of_modv hmodv ..)).trans (withInDomain_of_lt hin ..)

theorem ChecksThenWrites.writes (h : ChecksThenWrites i s operands rd v) (hmodv : s.modv = true)
    (hin : ∀ a ∈ operands, a < s.modulus) : Writes i s rd v :=
  writes_of_complete_setX (h.exec_eq hmodv hin)

/-- The only next state of a command whose checks pass. -/
theorem ChecksThenWrites.next_eq (h : ChecksThenWrites i s operands rd v) (hmodv : s.modv = true)
    (hin : ∀ a ∈ operands, a < s.modulus) {t : State} (ht : exec i s = .next t) : t = (s.setX rd v).retire := by
  rw [h.exec_eq hmodv hin, State.complete] at ht
  cases ht
  rfl

/-- With MOD = 1 an operand in range is 0, and so is every remainder (41_montgomery.md R129). -/
theorem ChecksThenWrites.writes_zero_of_modulus_one {w : Nat} (h : ChecksThenWrites i s operands rd (w % s.modulus))
    (hmodv : s.modv = true) (hone : s.modulus = 1) (hzero : ∀ a ∈ operands, a = 0) : Writes i s rd 0 := by
  have hwrites := h.writes hmodv fun a ha => by rw [hzero a ha, hone]; exact Nat.one_pos
  rwa [hone, Nat.mod_one] at hwrites

/-- With MOD = 1 every other operand than 0 is out of range (41_montgomery.md R129). -/
theorem ChecksThenWrites.errs_domain_of_modulus_one (h : ChecksThenWrites i s operands rd v) (hmodv : s.modv = true)
    (hone : s.modulus = 1) (hne : ∃ a ∈ operands, a ≠ 0) : Errs i s .domain := by
  obtain ⟨a, ha, ha0⟩ := hne
  exact h.errs_domain hmodv ⟨a, ha, hone ▸ Nat.one_le_iff_ne_zero.mpr ha0⟩

end Checks

/-! ### SETMOD -/

/-- An odd value is loaded (41_montgomery.md R120). -/
theorem exec_setmod_of_odd {s : State} {rs1 : Reg} (h : s.x rs1 % 2 = 1) :
    exec (.setmod rs1) s = (s.loadModulus (s.x rs1)).complete := by
  rw [exec, execSetmod, if_neg (by omega)]

/-- An even value clears MODV and raises MODULUS (41_montgomery.md R120). -/
theorem exec_setmod_of_even {s : State} {rs1 : Reg} (h : s.x rs1 % 2 = 0) :
    exec (.setmod rs1) s = s.dropModulus.raise .modulus (.setmod rs1) := by
  rw [exec, execSetmod, if_pos h]

/-- Dropping the modulus changes MODV alone, which a failure states by itself. -/
theorem fails_of_dropModulus {code : ErrCode} {c : Word} {mv : Bool} {s t : State}
    (h : State.Fails code c mv s.dropModulus t) : State.Fails code c mv s t where
  completed := h.completed
  regs := h.regs
  constants := ⟨h.constants.modulus, h.constants.nprime, h.constants.r2⟩
  modv := h.modv
  recorded := ⟨h.recorded.first, fun herr =>
    have hkept := h.recorded.kept herr
    ⟨hkept.err, hkept.ecode, hkept.errinfo⟩⟩
  rest := ⟨h.rest.ie, h.rest.eie, h.rest.nwIndex, h.rest.readLog, h.rest.inputs⟩

theorem getLsbD_bitWord (b : Bool) (k : Nat) : (bitWord b).getLsbD k = (decide (k = 0) && b) := by
  cases b <;> simp [bitWord, BitVec.getLsbD_one]

/-- Bit 2 of STATUS mirrors MODV (10_state.md R26, R27). -/
theorem statusWord_modv (s : State) : s.statusWord.getLsbD 2 = s.modv := by
  simp only [State.statusWord, BitVec.getLsbD_or, BitVec.getLsbD_shiftLeft, getLsbD_bitWord]
  simp

/-! ### The inverse of the radix -/

/-- `Rinv` is the only inverse of R modulo an odd N (00_scope.md R17). -/
theorem modEq_rInv {n : Nat} (hodd : n % 2 = 1) {k rinv : Nat} (h : 2 ^ k % n * rinv % n = 1 % n) :
    rinv ≡ rInv (2 ^ k) n [MOD n] := by
  have hcoprime : Nat.gcd n (2 ^ k) = 1 := Nat.gcd_comm n _ ▸ gcd_two_pow_of_odd hodd k
  have hinverse : 2 ^ k * rinv % n = 1 % n := by rw [← Nat.mod_mul_mod, h]
  exact Nat.ModEq.cancel_left_of_coprime hcoprime (hinverse.trans (rInv_mul hodd k).symm)

/-- A factor R taken in meets `Rinv` and is taken out again (41_montgomery.md R124). -/
theorem form_mul_rInv {n : Nat} (hodd : n % 2 = 1) (k a : Nat) :
    a * 2 ^ k % n * rInv (2 ^ k) n % n = a % n := by
  rw [← montProd_one, montProd_form_left hodd, mul_one]

theorem montProd_comm (radix n a b : Nat) : montProd radix n a b = montProd radix n b a := by
  rw [montProd, mul_comm a, montProd]

/-- The Montgomery product by R2 converts into the domain (41_montgomery.md R127). -/
theorem montProd_r2 {n : Nat} (hodd : n % 2 = 1) (k a : Nat) :
    montProd (2 ^ k) n a (2 ^ k * 2 ^ k % n) = a * 2 ^ k % n := by
  rw [montProd_comm, montProd_form_left hodd, mul_comm]

/-! ### The laws of 41_montgomery.md R127 -/

/-- R2 of a loaded modulus (00_scope.md R17, 41_montgomery.md R120). -/
theorem r2_of_inv {s : State} (hinv : s.Inv) (hodd : s.modulus % 2 = 1) : s.r2 = s.radix * s.radix % s.modulus := by
  rcases hinv.constants with ⟨hzero, -, -⟩ | ⟨-, -, hr2⟩
  · omega
  · exact hr2

/-- Converting two operands, multiplying in the domain and converting back is the modular product. -/
theorem tomont_montmul_frommont_eq_modmul {s s1 s2 s3 s4 : State} {ra rb r3 r4 r5 r6 : Reg} (hmodv : s.modv = true)
    (hodd : s.modulus % 2 = 1) (ha : s.x ra < s.modulus) (hb : s.x rb < s.modulus) (h3b : r3 ≠ rb) (h34 : r3 ≠ r4)
    (h1 : exec (.tomont r3 ra) s = .next s1) (h2 : exec (.tomont r4 rb) s1 = .next s2)
    (h3 : exec (.montmul r5 r3 r4) s2 = .next s3) (h4 : exec (.frommont r6 r5) s3 = .next s4) :
    s4.x r6 = s.x ra * s.x rb % s.modulus := by
  have hpos : 0 < s.modulus := Nat.zero_lt_of_lt ha
  have hforms : montProd s.radix s.modulus (s.x ra * s.radix % s.modulus) (s.x rb * s.radix % s.modulus) =
      s.x ra * s.x rb * s.radix % s.modulus := montProd_forms hodd s.width _ _
  obtain rfl := (checks_tomont r3 ra s).next_eq hmodv (by simpa using ha) h1
  obtain rfl := (checks_tomont r4 rb _).next_eq (by simpa using hmodv) (by simpa [setX_x_ne _ _ h3b.symm] using hb) h2
  obtain rfl := (checks_montmul r5 r3 r4 _).next_eq (by simpa using hmodv)
    (by simp [setX_x_ne _ _ h34, setX_x_ne _ _ h3b.symm, Nat.mod_lt _ hpos]) h3
  simp only [retire_x, setX_x_self, setX_x_ne _ _ h34, setX_x_ne _ _ h3b.symm, retire_modulus, setX_modulus,
    retire_radix, setX_radix, hforms] at h4
  obtain rfl := (checks_frommont r6 r5 _).next_eq (by simpa using hmodv) (by simp [Nat.mod_lt _ hpos]) h4
  rw [retire_x, setX_x_self, retire_x, setX_x_self]
  exact form_mul_rInv hodd s.width (s.x ra * s.x rb)

/-! ### The obligations -/

/-- Settles O16: an odd value is loaded with the constants of R17; an even one drops MODV and raises MODULUS. -/
theorem setmodLoadsOddModuli : Obligations.SetmodLoadsOddModuli := by
  refine ⟨formatOf _, fun rs1 s => ⟨fun hodd => ?_, fun heven c hc => ?_⟩⟩
  · have hwidth : 0 < s.width := Nat.mul_pos (by decide) s.nwIndex.val.succ_pos
    have hr2 : r2Of s.radix (s.x rs1) = s.radix ^ 2 % s.x rs1 := by rw [r2Of, sq]
    exact ⟨_, exec_setmod_of_odd hodd, retire_completed _, fun _ _ => rfl, ⟨rfl, rfl, rfl⟩,
      ⟨rfl, rfl, rfl, rfl, rfl⟩, rfl, nPrimeOf_lt _ (Nat.two_pow_pos _), nPrimeOf_mul hodd _ hwidth, hr2, rfl,
      statusWord_modv _⟩
  · obtain ⟨t, ht, hfails⟩ := raise_fails (s := s.dropModulus) hc .modulus (.setmod rs1)
    exact ⟨t, (exec_setmod_of_even heven).trans ht, fails_of_dropModulus hfails,
      (statusWord_modv t).trans hfails.modv⟩

/-- Settles O17: the product is with `Rinv`, the only inverse of 2^W. -/
theorem montmulIsTheMontgomeryProduct : Obligations.MontmulIsTheMontgomeryProduct := by
  refine ⟨formatOf _, fun rd rs1 rs2 s => ?_⟩
  have hchecks := checks_montmul rd rs1 rs2 s
  refine ⟨hchecks.errs_nomod, fun hmodv hout => hchecks.errs_domain hmodv (by simpa using hout),
    fun hmodv hodd ha hb => ⟨_, hchecks.writes hmodv (by simp [ha, hb]), Nat.mod_lt _ (by omega), fun rinv hrinv => ?_⟩⟩
  exact ((modEq_rInv hodd hrinv).mul_left _).symm

/-- Settles O18. -/
theorem modmulIsTheModularProduct : Obligations.ModmulIsTheModularProduct := by
  refine ⟨formatOf _, fun rd rs1 rs2 s => ?_⟩
  have hchecks := checks_modmul rd rs1 rs2 s
  exact ⟨hchecks.errs_nomod, fun hmodv hout => hchecks.errs_domain hmodv (by simpa using hout),
    fun hmodv ha hb => hchecks.writes hmodv (by simp [ha, hb])⟩

/-- Settles O19. -/
theorem tomontConvertsIntoTheDomain : Obligations.TomontConvertsIntoTheDomain := by
  refine ⟨formatOf _, fun rd rs1 s => ?_⟩
  have hchecks := checks_tomont rd rs1 s
  exact ⟨hchecks.errs_nomod, fun hmodv hout => hchecks.errs_domain hmodv (by simpa using hout),
    fun hmodv ha => hchecks.writes hmodv (by simpa using ha)⟩

/-- Settles O20: the factor is `Rinv`, the only inverse of 2^W, which takes TOMONT's factor 2^W out again. -/
theorem frommontConvertsOutOfTheDomain : Obligations.FrommontConvertsOutOfTheDomain := by
  refine ⟨formatOf _, fun rd rs1 s => ?_⟩
  have hchecks := checks_frommont rd rs1 s
  refine ⟨hchecks.errs_nomod, fun hmodv hout => hchecks.errs_domain hmodv (by simpa using hout),
    fun hmodv hodd ha => ⟨_, hchecks.writes hmodv (by simpa using ha), Nat.mod_lt _ (by omega),
      fun rinv hrinv => ?_, fun b hb hform => ?_⟩⟩
  · exact ((modEq_rInv hodd hrinv).mul_left _).symm
  · rw [hform]
    exact (form_mul_rInv hodd s.width b).trans (Nat.mod_eq_of_lt hb)

/-- Settles O21: there is no operand to check. -/
theorem reduceTakesAnyValue : Obligations.ReduceTakesAnyValue :=
  ⟨formatOf _, fun rd rs1 s =>
    ⟨(checks_reduce rd rs1 s).errs_nomod, fun hmodv => (checks_reduce rd rs1 s).writes hmodv (by simp)⟩⟩

/-- Settles O55: each law is an equation of the results, since with operands in range every check passes. -/
theorem montgomeryCommandsObeyTheLaws : Obligations.MontgomeryCommandsObeyTheLaws := by
  intro s ra rb hinv hmodv ha hb
  have hodd := hinv.modvLoaded hmodv
  have ha' : ∀ a ∈ [s.x ra], a < s.modulus := by simpa using ha
  have hab : ∀ a ∈ [s.x ra, s.x rb], a < s.modulus := by simp [ha, hb]
  have hba : ∀ a ∈ [s.x rb, s.x ra], a < s.modulus := by simp [ha, hb]
  refine ⟨?_, ?_, ?_, ?_⟩
  · intro r3 r4 r5 r6 r7 s1 s2 s3 s4 u h3b h34 h1 h2 h3 h4 hu
    obtain rfl := (checks_modmul r7 ra rb s).next_eq hmodv hab hu
    rw [tomont_montmul_frommont_eq_modmul hmodv hodd ha hb h3b h34 h1 h2 h3 h4, retire_x, setX_x_self]
  · intro r3 r4 t u hr2 ht hu
    obtain rfl := (checks_tomont r3 ra s).next_eq hmodv ha' ht
    obtain rfl := (checks_montmul r4 ra rb s).next_eq hmodv hab hu
    rw [retire_x, setX_x_self, retire_x, setX_x_self, hr2, r2_of_inv hinv hodd]
    exact (montProd_r2 hodd s.width _).symm
  · intro r3 r4 t u _ hone ht hu
    obtain rfl := (checks_frommont r3 ra s).next_eq hmodv ha' ht
    obtain rfl := (checks_montmul r4 ra rb s).next_eq hmodv hab hu
    rw [retire_x, setX_x_self, retire_x, setX_x_self, hone, montProd_one]
  · intro r3 r4 t u ht hu
    obtain rfl := (checks_montmul r3 ra rb s).next_eq hmodv hab ht
    obtain rfl := (checks_montmul r4 rb ra s).next_eq hmodv hba hu
    rw [retire_x, setX_x_self, retire_x, setX_x_self, montProd_comm]

/-- Settles O56: modulo 1 every result is 0, and no operand but 0 is below 1. -/
theorem modulusOneGivesZero : Obligations.ModulusOneGivesZero := by
  intro s rd rs1 rs2 hmodv hone
  have hmontmul := checks_montmul rd rs1 rs2 s
  have hmodmul := checks_modmul rd rs1 rs2 s
  have htomont := checks_tomont rd rs1 s
  have hfrommont := checks_frommont rd rs1 s
  have hmodexp := checks_modexp rd rs1 rs2 s
  rw [powMod_eq] at hmodexp
  refine ⟨fun h1 h2 => ?_, fun h1 => ?_,
    (checks_reduce rd rs1 s).writes_zero_of_modulus_one hmodv hone (by simp),
    hmodexp.writes_zero_of_modulus_one hmodv hone (by simp), fun hne => ?_, fun hne => ?_⟩
  · have hzero : ∀ a ∈ [s.x rs1, s.x rs2], a = 0 := by simp [h1, h2]
    exact ⟨hmontmul.writes_zero_of_modulus_one hmodv hone hzero, hmodmul.writes_zero_of_modulus_one hmodv hone hzero⟩
  · have hzero : ∀ a ∈ [s.x rs1], a = 0 := by simpa using h1
    exact ⟨htomont.writes_zero_of_modulus_one hmodv hone hzero,
      hfrommont.writes_zero_of_modulus_one hmodv hone hzero⟩
  · have hout : ∃ a ∈ [s.x rs1, s.x rs2], a ≠ 0 := by simpa using hne
    exact ⟨hmontmul.errs_domain_of_modulus_one hmodv hone hout, hmodmul.errs_domain_of_modulus_one hmodv hone hout⟩
  · have hout : ∃ a ∈ [s.x rs1], a ≠ 0 := by simpa using hne
    exact ⟨htomont.errs_domain_of_modulus_one hmodv hone hout, hfrommont.errs_domain_of_modulus_one hmodv hone hout⟩

end Sys2Proof.Proofs
end

section
/-!
PROOFS. The modular exponentiation MODEXP (42_modexp.md R140). Its checks are those of 41_montgomery.md R126 with no
operand to range-check, and its result is the power by `powMod_eq`.
-/

namespace Sys2Proof.Proofs

open Sys2Proof.Machine Sys2Proof.Laws Sys2Proof.Claims

/-- MODEXP needs a loaded modulus, checks no operand, and writes the power of the reduced base (42_modexp.md R140). -/
theorem checks_modexp_pow (rd rs1 rs2 : Reg) (s : State) : ChecksThenWrites (.modexp rd rs1 rs2) s
    [] rd ((s.x rs1 % s.modulus) ^ s.x rs2 % s.modulus) := by
  rw [← powMod_eq]
  exact checks_modexp rd rs1 rs2 s

/-- Settles O22: NOMOD is the only check, since there is no operand to check against MOD. -/
theorem modexpIsThePowerModMod : Obligations.ModexpIsThePowerModMod := by
  refine ⟨formatOf _, fun rd rs1 rs2 s => ?_⟩
  have hchecks := checks_modexp_pow rd rs1 rs2 s
  exact ⟨hchecks.errs_nomod, fun hmodv => hchecks.writes hmodv (List.forall_mem_nil _)⟩

end Sys2Proof.Proofs
end

section
/-!
PROOFS. The extended-GCD engine and the modular inverse solver (43_gcd_inverse.md R150 to R152): the computed loop is
the loop of R150, its coefficients stay below half the operands, and XGCD and MODINV write what it gives.
-/

namespace Sys2Proof.Proofs

open Sys2Proof.Machine Sys2Proof.Laws Sys2Proof.Claims

/-! ### The loop -/

/-- What the computed loop returns is what the loop of R150 ends with, given fuel for every pass. -/
theorem euclidEnds_bezoutLoop : ∀ (fuel : Nat) (z : Bezout), z.r1 < fuel →
    EuclidEnds z.r0 z.r1 z.s0 z.s1 z.t0 z.t1
      (bezoutLoop fuel z).r0 (bezoutLoop fuel z).s0 (bezoutLoop fuel z).t0 := by
  intro fuel
  induction fuel with
  | zero => exact fun z hfuel => absurd hfuel (Nat.not_lt_zero _)
  | succ k ih =>
    intro z hfuel
    by_cases hzero : z.r1 = 0
    · rw [bezoutLoop, if_pos hzero, hzero]
      exact .stop ..
    · have hless := bezoutPass_r1_lt hzero
      rw [bezoutLoop, if_neg hzero]
      exact .pass _ _ _ _ _ _ _ _ _ _ hzero rfl (ih (bezoutPass z) (by omega))

/-- The loop of R150 on `(a, b)` ends with the values of `xgcd`. -/
theorem euclidEnds_xgcd (a b : Nat) : EuclidEnds a b 1 0 0 1 (xgcd a b).r0 (xgcd a b).s0 (xgcd a b).t0 :=
  euclidEnds_bezoutLoop (b + 1) ⟨a, b, 1, 0, 0, 1⟩ (Nat.lt_succ_self b)

/-- The loop of R150 fixes its result. -/
theorem euclidEnds_unique {r0 r1 g g' : Nat} {s0 s1 t0 t1 x y x' y' : Int}
    (h : EuclidEnds r0 r1 s0 s1 t0 t1 g x y) (h' : EuclidEnds r0 r1 s0 s1 t0 t1 g' x' y') :
    g = g' ∧ x = x' ∧ y = y' := by
  induction h with
  | stop =>
    cases h' with
    | stop => exact ⟨rfl, rfl, rfl⟩
    | pass _ _ _ _ _ _ _ _ _ _ hne => exact absurd rfl hne
  | pass r0 r1 q s0 s1 t0 t1 g x y hne hq _ ih =>
    cases h' with
    | stop => exact absurd rfl hne
    | pass _ _ _ _ _ _ _ _ _ _ _ hq' rest' => exact ih (hq.trans hq'.symm ▸ rest')

/-- The loop treats the two coefficient columns alike. -/
theorem euclidEnds_swap {r0 r1 g : Nat} {s0 s1 t0 t1 x y : Int} (h : EuclidEnds r0 r1 s0 s1 t0 t1 g x y) :
    EuclidEnds r0 r1 t0 t1 s0 s1 g y x := by
  induction h with
  | stop => exact .stop ..
  | pass _ _ _ _ _ _ _ _ _ _ hne hq _ ih => exact .pass _ _ _ _ _ _ _ _ _ _ hne hq ih

/-! ### The range of the coefficients (43_gcd_inverse.md R152) -/

/-- What the loop keeps of a coefficient column `(c0, c1)` beside the remainders `(r0, r1)`. A pass keeps the weighted
sum by the triangle inequality; once the remainders descend, `r0 ≥ 2` makes the sum bound `2·|c1|`. -/
structure ColumnBelow (bound : Int) (r0 r1 : Nat) (c0 c1 : Int) : Prop where
  current : 2 * |c0| < bound
  next : r1 < r0 ∨ 2 * |c1| < bound
  weighted : r0 * |c1| + r1 * |c0| < bound

/-- The coefficient that the next pass moves to the front is in range. -/
theorem ColumnBelow.two_mul_abs_next_lt {bound : Int} {r0 r1 : Nat} {c0 c1 : Int}
    (h : ColumnBelow bound r0 r1 c0 c1) (hne : r1 ≠ 0) : 2 * |c1| < bound := by
  obtain hdescend | hnext := h.next
  · have htwo : (2 : Int) ≤ r0 := by omega
    calc 2 * |c1| ≤ r0 * |c1| := mul_le_mul_of_nonneg_right htwo (abs_nonneg c1)
      _ ≤ r0 * |c1| + r1 * |c0| := le_add_of_nonneg_right (by positivity)
      _ < bound := h.weighted
  · exact hnext

/-- A pass of the loop keeps the bounds of a column. -/
theorem ColumnBelow.pass {bound : Int} {r0 r1 : Nat} {c0 c1 : Int} (h : ColumnBelow bound r0 r1 c0 c1)
    (hne : r1 ≠ 0) : ColumnBelow bound r1 (r0 - r0 / r1 * r1) c1 (c0 - (r0 / r1 : Nat) * c1) where
  current := h.two_mul_abs_next_lt hne
  next := by
    left
    have hmod := Nat.mod_lt r0 (Nat.pos_of_ne_zero hne)
    have hdiv := Nat.div_add_mod' r0 r1
    omega
  weighted := by
    have htriangle : |c0 - (r0 / r1 : Nat) * c1| ≤ |c0| + (r0 / r1 : Nat) * |c1| := by
      simpa only [abs_mul, Nat.abs_cast] using abs_sub c0 ((r0 / r1 : Nat) * c1)
    calc (r1 : Int) * |c0 - (r0 / r1 : Nat) * c1| + (r0 - r0 / r1 * r1 : Nat) * |c1|
        ≤ r1 * (|c0| + (r0 / r1 : Nat) * |c1|) + (r0 - r0 / r1 * r1 : Nat) * |c1| := by gcongr
      _ = r0 * |c1| + r1 * |c0| := by rw [Nat.cast_sub (Nat.div_mul_le_self r0 r1)]; push_cast; ring
      _ < bound := h.weighted

/-- A column that starts in range ends in range. -/
theorem two_mul_abs_lt_of_euclidEnds {bound : Int} {r0 r1 g : Nat} {s0 s1 t0 t1 x y : Int}
    (h : EuclidEnds r0 r1 s0 s1 t0 t1 g x y) (hs : ColumnBelow bound r0 r1 s0 s1) : 2 * |x| < bound := by
  induction h with
  | stop => exact hs.current
  | pass _ _ _ _ _ _ _ _ _ _ hne hq _ ih => subst hq; exact ih (hs.pass hne)

/-- Both coefficients of operands below a bound above 2 are below half of it (43_gcd_inverse.md R152). -/
theorem two_mul_abs_coefficients_lt {bound : Int} {a b g : Nat} {x y : Int} (hbound : 2 < bound)
    (ha : (a : Int) < bound) (hb : (b : Int) < bound) (h : EuclidEnds a b 1 0 0 1 g x y) :
    2 * |x| < bound ∧ 2 * |y| < bound := by
  have hpos : 0 < bound := two_pos.trans hbound
  have hcolumnX : ColumnBelow bound a b 1 0 := ⟨by simpa using hbound, .inr (by simpa using hpos), by simpa using hb⟩
  have hcolumnY : ColumnBelow bound a b 0 1 := ⟨by simpa using hpos, .inr (by simpa using hbound), by simpa using ha⟩
  exact ⟨two_mul_abs_lt_of_euclidEnds h hcolumnX, two_mul_abs_lt_of_euclidEnds (euclidEnds_swap h) hcolumnY⟩

/-! ### Two's complement -/

/-- The two's-complement image is the value modulo 2^W (00_scope.md R11). -/
theorem natCast_twos (w : Nat) (v : Int) : ((twos w v : Nat) : Int) = v % (2 ^ w : Int) := by
  rw [twos, Int.toNat_of_nonneg (Int.emod_nonneg _ (by positivity)), Nat.cast_pow, Nat.cast_ofNat]

/-- A value in the signed range of the width is what its two's-complement image reads as (00_scope.md R11). -/
theorem toInt_ofNat_twos {w : Nat} {v : Int} (hw : 0 < w) (hlow : -2 ^ (w - 1) < v) (hhigh : v < 2 ^ (w - 1)) :
    (BitVec.ofNat w (twos w v)).toInt = v := by
  have himage : BitVec.ofNat w (twos w v) = BitVec.ofInt w v :=
    BitVec.eq_of_toNat_eq ((Nat.mod_eq_of_lt (twos_lt w v)).trans (BitVec.toNat_ofInt v).symm)
  rw [himage]
  exact BitVec.toInt_ofInt_eq_self hw hlow.le hhigh

/-! ### XGCD -/

/-- The register that the model numbers in a group is the statements' member of the group. -/
theorem groupReg_eq_member (base : Reg) (k : Nat) : groupReg base k = member base k := rfl

/-- With a group that fits, XGCD writes the loop's results, the coefficients in two's complement
(43_gcd_inverse.md R150). -/
theorem exec_xgcd {rd : Reg} (hrd : rd.val ≤ 5) (rs1 rs2 : Reg) (s : State) :
    exec (.xgcd rd rs1 rs2) s =
      (((s.setX rd (xgcd (s.x rs1) (s.x rs2)).r0).setX (member rd 1) (twos s.width (xgcd (s.x rs1) (s.x rs2)).s0)).setX
        (member rd 2) (twos s.width (xgcd (s.x rs1) (s.x rs2)).t0)).complete := by
  have hbase : groupReg rd 0 = rd := Fin.ext (groupReg_val (by omega))
  rw [exec, execXgcd, withGroup_of_fits (by omega), hbase, groupReg_eq_member, groupReg_eq_member]

/-- XGCD succeeds with the results of `xgcd` in its three registers, which are different since the group does not wrap
(30_encoding.md R86). -/
theorem runs_xgcd {rd : Reg} (hrd : rd.val ≤ 5) (rs1 rs2 : Reg) (s : State) :
    Runs (.xgcd rd rs1 rs2) s fun t =>
      State.Succeeds [rd, member rd 1, member rd 2] s t ∧ t.x rd = (xgcd (s.x rs1) (s.x rs2)).r0 ∧
        t.x (member rd 1) = twos s.width (xgcd (s.x rs1) (s.x rs2)).s0 ∧
        t.x (member rd 2) = twos s.width (xgcd (s.x rs1) (s.x rs2)).t0 := by
  rw [Runs, exec_xgcd hrd]
  have h1 : (member rd 1).val = rd.val + 1 := groupReg_val (by omega)
  have h2 : (member rd 2).val = rd.val + 2 := groupReg_val (by omega)
  exact complete_setX3_succeeds s _ _ _ (Fin.ne_of_val_ne (by omega)) (Fin.ne_of_val_ne (by omega))
    (Fin.ne_of_val_ne (by omega))

/-! ### MODINV -/

/-- No inverse exists, and MODINV raises ARITH (43_gcd_inverse.md R151). -/
theorem exec_modinv_of_not_invertible {rs1 rs2 : Reg} {s : State}
    (h : s.x rs2 = 0 ∨ Nat.gcd (s.x rs1) (s.x rs2) ≠ 1) (rd : Reg) :
    exec (.modinv rd rs1 rs2) s = s.raise .arith (.modinv rd rs1 rs2) := by
  rw [exec, execModinv, if_pos h]

/-- MODINV writes the inverse of the reduced operand (43_gcd_inverse.md R151). -/
theorem exec_modinv_of_invertible {rs1 rs2 : Reg} {s : State} (hne : s.x rs2 ≠ 0)
    (hcoprime : Nat.gcd (s.x rs1) (s.x rs2) = 1) (rd : Reg) :
    exec (.modinv rd rs1 rs2) s = (s.setX rd (invMod (s.x rs1 % s.x rs2) (s.x rs2))).complete := by
  rw [exec, execModinv, if_neg (not_or.mpr ⟨hne, not_not.mpr hcoprime⟩)]

/-- The inverse of the reduced operand is an inverse of the operand. -/
theorem mul_invMod_mod {a m : Nat} (hm : 0 < m) (hcoprime : Nat.gcd a m = 1) : a * invMod (a % m) m % m = 1 % m := by
  have hreduced : Nat.gcd (a % m) m = 1 := by rw [← Nat.gcd_rec, Nat.gcd_comm, hcoprime]
  rw [← Nat.mod_mul_mod, invMod_mul hm hreduced]

/-! ### The obligations -/

/-- Settles O23: the loop's results are those of `xgcd`, which are the gcd and a Bezout pair and which XGCD writes. -/
theorem xgcdRunsTheClassicLoop : Obligations.XgcdRunsTheClassicLoop := by
  refine ⟨formatOf _, fun rd rs1 rs2 s hrd => ?_⟩
  obtain ⟨hgcd, hbezout, -⟩ := xgcd_spec (s.x rs1) (s.x rs2)
  obtain ⟨t, ht, hsucceeds, hg, hx, hy⟩ := runs_xgcd hrd rs1 rs2 s
  exact ⟨_, _, _, euclidEnds_xgcd _ _, hgcd, hbezout, t, ht, hsucceeds, hg, hx ▸ natCast_twos .., hy ▸ natCast_twos ..⟩

/-- Settles O58: the coefficients are below half of 2^W, so their images read back as themselves. -/
theorem xgcdCoefficientsFit : Obligations.XgcdCoefficientsFit := by
  intro rd rs1 rs2 s g x y hrd ha hb hends
  obtain ⟨-, rfl, rfl⟩ := euclidEnds_unique (euclidEnds_xgcd _ _) hends
  have hwidth : 1 < 32 * s.nw := by rw [State.nw]; omega
  have hhalf : (2 : Int) ^ (32 * s.nw) = 2 * 2 ^ (32 * s.nw - 1) := (mul_pow_sub_one (by omega) 2).symm
  have hradix : (2 : Int) < 2 ^ (32 * s.nw) := by simpa using pow_lt_pow_right₀ (one_lt_two (α := Int)) hwidth
  have hcoefficients := two_mul_abs_coefficients_lt hradix (by exact_mod_cast ha) (by exact_mod_cast hb) hends
  rw [hhalf, mul_lt_mul_iff_right₀ two_pos, mul_lt_mul_iff_right₀ two_pos, abs_lt, abs_lt] at hcoefficients
  obtain ⟨⟨hxlow, hxhigh⟩, ⟨hylow, hyhigh⟩⟩ := hcoefficients
  obtain ⟨t, ht, -, -, htx, hty⟩ := runs_xgcd hrd rs1 rs2 s
  exact ⟨⟨hxlow, hxhigh⟩, ⟨hylow, hyhigh⟩, t, ht, htx ▸ toInt_ofNat_twos (by omega) hxlow hxhigh,
    hty ▸ toInt_ofNat_twos (by omega) hylow hyhigh⟩

/-- Settles O24: without an inverse ARITH is raised, and otherwise the inverse of the reduced operand is written. -/
theorem modinvFindsTheInverse : Obligations.ModinvFindsTheInverse := by
  refine ⟨formatOf _, fun rd rs1 rs2 s => ⟨fun hnone => ?_, fun hne hcoprime => ?_⟩⟩
  · exact errs_of_raise (exec_modinv_of_not_invertible hnone rd)
  · have hpos := Nat.pos_of_ne_zero hne
    exact ⟨_, writes_of_complete_setX (exec_modinv_of_invertible hne hcoprime rd), invMod_lt _ hpos,
      mul_invMod_mod hpos hcoprime⟩

end Sys2Proof.Proofs
end

section
/-!
PROOFS. The prime validator MRTEST and RSACHK (44_prime.md R160, R161). The computed round is the strong-probable-prime
condition for every way to write n − 1 as a power of two times an odd number, and there is only one.
-/

namespace Sys2Proof.Proofs

open Sys2Proof.Machine Sys2Proof.Laws Sys2Proof.Claims

/-! ### The round of MRTEST -/

/-- Removing factors of two finds the exponent of a number given as a power of two times an odd number. -/
theorem twoPart_two_pow_mul {d : Nat} (hodd : d % 2 = 1) : ∀ fuel k : Nat, 2 ^ k * d < 2 ^ fuel →
    twoPart fuel (2 ^ k * d) = k := by
  intro fuel
  induction fuel with
  | zero =>
    intro k hlt
    have hpos : 0 < 2 ^ k * d := Nat.mul_pos (Nat.two_pow_pos k) (by omega)
    omega
  | succ fuel ih =>
    intro k hlt
    cases k with
    | zero => rw [pow_zero, one_mul, twoPart, if_neg (by omega)]
    | succ k =>
      have hdouble : 2 ^ (k + 1) * d = 2 * (2 ^ k * d) := by ring
      have hhalf : 2 * (2 ^ k * d) / 2 = 2 ^ k * d := Nat.mul_div_cancel_left _ two_pos
      rw [hdouble, twoPart, if_pos (Nat.mul_mod_right 2 _), hhalf, ih k (by omega)]

/-- The squaring loop, begun at a^e mod n, looks for n − 1 among the powers of a to 2e, 4e, up to 2^k·e. -/
theorem squaringHits_iff (n a : Nat) : ∀ k e : Nat,
    squaringHits n k (a ^ e % n) = true ↔ ∃ r, r < k ∧ a ^ (2 ^ (r + 1) * e) % n = n - 1 := by
  intro k
  induction k with
  | zero => simp [squaringHits]
  | succ k ih =>
    intro e
    have hsquare : a ^ e % n * (a ^ e % n) % n = a ^ (2 * e) % n := by rw [← Nat.mul_mod, ← pow_add, two_mul]
    have hexponent : ∀ r, 2 ^ (r + 1) * (2 * e) = 2 ^ (r + 1 + 1) * e := fun r => by ring
    have hih := ih (2 * e)
    simp only [hexponent] at hih
    rw [Nat.exists_lt_succ_left, zero_add, pow_one, ← hih, squaringHits, hsquare]
    simp

/-- With n − 1 = 2^k·d, d odd and k ≥ 1, the computed round is the strong-probable-prime condition (44_prime.md
R160). -/
theorem strongProbablePrime_iff {n k d : Nat} (a : Nat) (hn : n - 1 = 2 ^ (k + 1) * d) (hodd : d % 2 = 1) :
    strongProbablePrime n a = true ↔
      a ^ d % n = 1 ∨ ∃ r, r < k + 1 ∧ a ^ (2 ^ r * d) % n = n - 1 := by
  have hexponent : twoPart (bitlen (n - 1)) (n - 1) = k + 1 := by
    have hfits := lt_two_pow_bitlen (n - 1)
    rw [hn] at hfits ⊢
    exact twoPart_two_pow_mul hodd _ _ hfits
  have hcofactor : (n - 1) / 2 ^ (k + 1) = d := by rw [hn, Nat.mul_div_cancel_left _ (Nat.two_pow_pos _)]
  rw [Nat.exists_lt_succ_left, pow_zero, one_mul, ← squaringHits_iff, strongProbablePrime, hexponent, hcofactor,
    powMod_eq]
  simp [or_assoc]

/-- An odd n makes n − 1 even, so it has a factor of two to take out. -/
theorem exponent_ne_zero_of_odd {n k d : Nat} (hodd : n % 2 = 1) (hn : n - 1 = 2 ^ k * d) (hd : d % 2 = 1) : k ≠ 0 := by
  rintro rfl
  omega

/-! ### The meanings of MRTEST and RSACHK -/

/-- The candidate 2 gives 1, whatever the base (44_prime.md R160). -/
theorem exec_mrtest_of_two {rs1 : Reg} {s : State} (h : s.x rs1 = 2) (rd rs2 : Reg) :
    exec (.mrtest rd rs1 rs2) s = (s.setX rd 1).complete := by
  rw [exec, execMrtest]
  exact if_pos h

/-- A candidate below 2, or an even one other than 2, gives 0, whatever the base (44_prime.md R160). -/
theorem exec_mrtest_of_even {rs1 : Reg} {s : State} (hne : s.x rs1 ≠ 2) (h : s.x rs1 < 2 ∨ s.x rs1 % 2 = 0)
    (rd rs2 : Reg) : exec (.mrtest rd rs1 rs2) s = (s.setX rd 0).complete := by
  rw [exec, execMrtest]
  exact (if_neg hne).trans (if_pos h)

/-- An odd candidate of at least 3 has its base examined first (44_prime.md R160). -/
theorem exec_mrtest_of_odd {rs1 : Reg} {s : State} (hthree : 3 ≤ s.x rs1) (hodd : s.x rs1 % 2 = 1) (rd rs2 : Reg) :
    exec (.mrtest rd rs1 rs2) s =
      if s.x rs2 = 0 ∨ s.x rs1 ≤ s.x rs2 then s.raise .domain (.mrtest rd rs1 rs2)
      else (s.setX rd (verdict (strongProbablePrime (s.x rs1) (s.x rs2)))).complete := by
  rw [exec, execMrtest]
  exact (if_neg (by omega)).trans (if_neg (by omega))

/-- An odd candidate of at least 3 with a base in [1, n − 1] gets the verdict of the round (44_prime.md R160). -/
theorem writes_mrtest {rs1 rs2 : Reg} {s : State} (hthree : 3 ≤ s.x rs1) (hodd : s.x rs1 % 2 = 1)
    (hlow : 1 ≤ s.x rs2) (hhigh : s.x rs2 < s.x rs1) (rd : Reg) :
    Writes (.mrtest rd rs1 rs2) s rd (verdict (strongProbablePrime (s.x rs1) (s.x rs2))) :=
  writes_of_complete_setX ((exec_mrtest_of_odd hthree hodd rd rs2).trans (if_neg (by omega)))

theorem exec_rsachk (rd rs1 rs2 : Reg) (imm : Imm) (s : State) : exec (.rsachk rd rs1 rs2 imm) s =
    (s.setX rd (verdict (bitlen (s.x rs1) == imm.toNat) +
      2 * verdict (decide (1 ≤ s.x rs1) && Nat.gcd (s.x rs1 - 1) (s.x rs2) == 1))).complete := rfl

/-- A number has exactly k bits when it fits k bits and, unless k is 0, does not fit k − 1. -/
theorem bitlen_eq_iff (v k : Nat) : bitlen v = k ↔ v < 2 ^ k ∧ (k ≠ 0 → 2 ^ (k - 1) ≤ v) := by
  rw [← Nat.not_lt, ← bitlen_le_iff, ← bitlen_le_iff]
  omega

/-! ### The obligations -/

/-- Settles O25: the four cases are the branches of MRTEST, and the verdict of the last is that of the round. -/
theorem mrtestRunsOneMillerRabinRound : Obligations.MrtestRunsOneMillerRabinRound := by
  refine ⟨formatOf _, fun rd rs1 rs2 s => ⟨fun htwo => ?_, fun hne heven => ?_, fun hthree hodd hbase => ?_,
    fun hthree hodd hlow hhigh => ?_⟩⟩
  · exact writes_of_complete_setX (exec_mrtest_of_two htwo rd rs2)
  · exact writes_of_complete_setX (exec_mrtest_of_even hne heven rd rs2)
  · exact errs_of_raise ((exec_mrtest_of_odd hthree hodd rd rs2).trans (if_pos hbase))
  · refine ⟨_, writes_mrtest hthree hodd hlow hhigh rd, fun k d hn hd => ?_⟩
    obtain ⟨k, rfl⟩ := Nat.exists_eq_succ_of_ne_zero (exponent_ne_zero_of_odd hodd hn hd)
    exact isVerdict_verdict (strongProbablePrime_iff _ hn hd)

/-- Settles O26: the two bits are the verdicts of the length and of the gcd, and no check stands before them. -/
theorem rsachkChecksLengthAndGcd : Obligations.RsachkChecksLengthAndGcd := by
  refine ⟨formatOf _, fun rd rs1 rs2 imm s => ⟨_, _, writes_of_complete_setX (exec_rsachk rd rs1 rs2 imm s), ?_, ?_⟩⟩
  · exact isVerdict_verdict (beq_iff_eq.trans (bitlen_eq_iff _ _))
  · exact isVerdict_verdict (by rw [Bool.and_eq_true, decide_eq_true_iff, beq_iff_eq])

end Sys2Proof.Proofs
end

section
/-!
PROOFS. The RSA CRT signing unit CRTSIGN and the signature verifier VERIFY (45_rsa.md R170 to R172). The order of checks
and the formulas are the branches of the two meanings; the round trip of R172 is Fermat's little theorem at each prime
of the key and the Chinese remainder theorem for their product.
-/

namespace Sys2Proof.Proofs

open Sys2Proof.Machine Sys2Proof.Laws Sys2Proof.Claims

/-! ### The meanings of CRTSIGN and VERIFY -/

/-- The first register of a group is its base. -/
theorem groupReg_zero (base : Reg) : groupReg base 0 = base := Fin.ext (Nat.mod_eq_of_lt base.isLt)

/-- With a key group that fits, CRTSIGN checks MODULUS, OVERFLOW and DOMAIN in this order (45_rsa.md R170). -/
theorem exec_crtsign {rs2 : Reg} (hrs2 : rs2.val ≤ 3) (rd rs1 : Reg) (s : State) :
    exec (.crtsign rd rs1 rs2) s =
      if s.x rs2 % 2 = 0 ∨ s.x (member rs2 1) % 2 = 0 then s.raise .modulus (.crtsign rd rs1 rs2)
      else if s.radix ≤ s.x rs2 * s.x (member rs2 1) then s.raise .overflow (.crtsign rd rs1 rs2)
      else if s.x rs2 * s.x (member rs2 1) ≤ s.x rs1 then s.raise .domain (.crtsign rd rs1 rs2)
      else (s.setX rd (crtSignature (s.x rs1) (s.x rs2) (s.x (member rs2 1)) (s.x (member rs2 2)) (s.x (member rs2 3))
        (s.x (member rs2 4)))).complete := by
  rw [exec, execCrtsign, withGroup_of_fits (by omega), groupReg_zero]
  rfl

/-- A key of two odd factors whose product fits W bits signs every message below the product (45_rsa.md R170). -/
theorem writes_crtsign {rs1 rs2 : Reg} {s : State} (hrs2 : rs2.val ≤ 3) (hp : s.x rs2 % 2 = 1)
    (hq : s.x (member rs2 1) % 2 = 1) (hfits : s.x rs2 * s.x (member rs2 1) < s.radix)
    (hm : s.x rs1 < s.x rs2 * s.x (member rs2 1)) (rd : Reg) :
    Writes (.crtsign rd rs1 rs2) s rd (crtSignature (s.x rs1) (s.x rs2) (s.x (member rs2 1)) (s.x (member rs2 2))
      (s.x (member rs2 3)) (s.x (member rs2 4))) := by
  apply writes_of_complete_setX
  rw [exec_crtsign hrs2, if_neg (by omega), if_neg (Nat.not_le.mpr hfits), if_neg (Nat.not_le.mpr hm)]

/-- With a group that fits, VERIFY checks MODULUS, then DOMAIN, and does not range-check the signature (45_rsa.md
R171). -/
theorem exec_verify {rs2 : Reg} (hrs2 : rs2.val ≤ 5) (rd rs1 : Reg) (s : State) :
    exec (.verify rd rs1 rs2) s =
      if s.x (member rs2 2) % 2 = 0 then s.raise .modulus (.verify rd rs1 rs2)
      else if s.x (member rs2 2) ≤ s.x rs1 then s.raise .domain (.verify rd rs1 rs2)
      else (s.setX rd (verdict (powMod (s.x rs2) (s.x (member rs2 1)) (s.x (member rs2 2)) == s.x rs1))).complete := by
  rw [exec, execVerify, withGroup_of_fits (by omega), groupReg_zero]
  rfl

/-! ### The CRT formula -/

/-- For p ≥ 1 the computed signature is the formula of 45_rsa.md R170, with h by floor mod over the integers. -/
theorem crtSignature_eq {p : Nat} (hp : 0 < p) (m q dP dQ qInv : Nat) :
    ∃ h : Nat, (h : Int) = (qInv : Int) * (((m ^ dP % p : Nat) - (m ^ dQ % q : Nat) : Int) % p) % p ∧
      crtSignature m p q dP dQ qInv = (m ^ dQ % q + h * q) % (p * q) := by
  refine ⟨qInv * (((m ^ dP % p : Nat) - (m ^ dQ % q : Nat) : Int) % p).toNat % p, ?_, ?_⟩
  · have hnonneg := Int.emod_nonneg ((m ^ dP % p : Nat) - (m ^ dQ % q : Nat) : Int) (b := p) (by omega)
    rw [Int.natCast_mod, Nat.cast_mul, Int.toNat_of_nonneg hnonneg]
  · rw [crtSignature, powMod_eq, powMod_eq]

/-- Modulo q the signature is the power by dQ: the correction h·q vanishes. -/
theorem crtSignature_modEq_right {p : Nat} (hp : 0 < p) (m q dP dQ qInv : Nat) :
    crtSignature m p q dP dQ qInv ≡ m ^ dQ [MOD q] := by
  obtain ⟨h, -, hsig⟩ := crtSignature_eq hp m q dP dQ qInv
  calc crtSignature m p q dP dQ qInv
    _ ≡ m ^ dQ % q + h * q [MOD q] := hsig ▸ (Nat.mod_modEq _ _).of_mul_left p
    _ ≡ m ^ dQ % q [MOD q] := Nat.add_mul_mod_self_right ..
    _ ≡ m ^ dQ [MOD q] := Nat.mod_modEq _ _

/-- Modulo p the signature is the power by dP: with qInv the inverse of q, the correction h·q is m1 − m2. -/
theorem crtSignature_modEq_left {p q qInv : Nat} (hp : 0 < p) (hinv : qInv * q ≡ 1 [MOD p]) (m dP dQ : Nat) :
    crtSignature m p q dP dQ qInv ≡ m ^ dP [MOD p] := by
  obtain ⟨h, hcorrection, hsig⟩ := crtSignature_eq hp m q dP dQ qInv
  have hinvInt : (qInv * q : Int) ≡ 1 [ZMOD p] := by exact_mod_cast Int.natCast_modEq_iff.mpr hinv
  have hsum : m ^ dQ % q + h * q ≡ m ^ dP % p [MOD p] := by
    rw [← Int.natCast_modEq_iff, Nat.cast_add, Nat.cast_mul, hcorrection]
    generalize ((m ^ dP % p : Nat) : Int) = m1
    generalize ((m ^ dQ % q : Nat) : Int) = m2
    calc m2 + qInv * ((m1 - m2) % p) % p * q
      _ ≡ m2 + qInv * (m1 - m2) * q [ZMOD p] :=
        (((Int.mod_modEq _ _).trans ((Int.mod_modEq _ _).mul_left _)).mul_right _).add_left _
      _ = m2 + qInv * q * (m1 - m2) := by ring
      _ ≡ m2 + 1 * (m1 - m2) [ZMOD p] := (hinvInt.mul_right _).add_left _
      _ = m1 := by ring
  calc crtSignature m p q dP dQ qInv
    _ ≡ m ^ dQ % q + h * q [MOD p] := hsig ▸ (Nat.mod_modEq _ _).of_mul_right q
    _ ≡ m ^ dP % p [MOD p] := hsum
    _ ≡ m ^ dP [MOD p] := Nat.mod_modEq _ _

/-! ### Powers modulo a prime of the key -/

/-- Fermat's little theorem for exponents: modulo a prime, non-zero exponents that agree modulo p − 1 give the same
power of every base, multiples of p included. -/
theorem pow_modEq_pow_of_prime {p a b : Nat} (hp : p.Prime) (ha : a ≠ 0) (hb : b ≠ 0) (hab : a ≡ b [MOD p - 1])
    (m : Nat) : m ^ a ≡ m ^ b [MOD p] := by
  have : Fact p.Prime := ⟨hp⟩
  rw [← ZMod.natCast_eq_natCast_iff, Nat.cast_pow, Nat.cast_pow]
  by_cases hm : (m : ZMod p) = 0
  · rw [hm, zero_pow ha, zero_pow hb]
  · exact pow_eq_pow_of_modEq hab (ZMod.pow_card_sub_one_eq_one hm)

/-- The exponent invariant of the key gives d·e ≡ 1 modulo each divisor of the lcm. -/
theorem one_modEq_of_mod_lcm {a k l : Nat} (h : a % Nat.lcm k l = 1) : 1 ≡ a [MOD k] ∧ 1 ≡ a [MOD l] := by
  have hlcm : 1 ≡ a [MOD Nat.lcm k l] := h ▸ Nat.mod_modEq _ _
  exact ⟨hlcm.of_dvd (Nat.dvd_lcm_left k l), hlcm.of_dvd (Nat.dvd_lcm_right k l)⟩

/-- What the key invariants of 45_rsa.md R172 say of one of its primes: it is odd, and e is the inverse of d modulo
p − 1. -/
structure KeyPrime (p d e : Nat) : Prop where
  prime : p.Prime
  two_lt : 2 < p
  exponents : 1 ≡ d * e [MOD p - 1]

theorem KeyPrime.of_odd {p d e : Nat} (hprime : p.Prime) (hodd : p % 2 = 1) (hde : 1 ≡ d * e [MOD p - 1]) :
    KeyPrime p d e where
  prime := hprime
  two_lt := by have := hprime.two_le; omega
  exponents := hde

section KeyPrime

variable {p d e : Nat}

/-- d·e is no multiple of p − 1, since it leaves the remainder 1. -/
theorem KeyPrime.mul_mod_pred_ne_zero (h : KeyPrime p d e) : d * e % (p - 1) ≠ 0 := by
  have hp := h.two_lt
  rw [← h.exponents, Nat.mod_eq_of_lt (by omega)]
  exact one_ne_zero

/-- The CRT exponent dP is not 0, so that dP and d agree on a base divisible by p too. -/
theorem KeyPrime.mod_pred_ne_zero (h : KeyPrime p d e) : d % (p - 1) ≠ 0 := fun hzero =>
  h.mul_mod_pred_ne_zero (by rw [Nat.mul_mod, hzero, zero_mul, Nat.zero_mod])

/-- The CRT exponent dP gives the same power modulo p as d. -/
theorem KeyPrime.pow_mod_pred_modEq (h : KeyPrime p d e) (m : Nat) : m ^ (d % (p - 1)) ≡ m ^ d [MOD p] := by
  have hd : d ≠ 0 := by rintro rfl; exact h.mod_pred_ne_zero (Nat.zero_mod _)
  exact pow_modEq_pow_of_prime h.prime h.mod_pred_ne_zero hd (Nat.mod_modEq _ _) m

/-- Raising to d and then to e is the identity modulo p. -/
theorem KeyPrime.pow_mul_modEq_self (h : KeyPrime p d e) (m : Nat) : m ^ (d * e) ≡ m [MOD p] := by
  have hne : d * e ≠ 0 := fun hzero => h.mul_mod_pred_ne_zero (by rw [hzero, Nat.zero_mod])
  simpa using pow_modEq_pow_of_prime h.prime hne one_ne_zero h.exponents.symm m

end KeyPrime

/-! ### The round trip (45_rsa.md R172) -/

/-- An inverse qInv of q modulo p shows the primes of the key to be coprime, and so different. -/
theorem coprime_of_mul_modEq_one {p q qInv : Nat} (hinv : qInv * q ≡ 1 [MOD p]) : Nat.Coprime p q := by
  rw [mul_comm] at hinv
  exact (Nat.coprime_of_mul_modEq_one qInv hinv).symm

/-- For a valid key the CRT formula gives the power by d modulo p·q. -/
theorem crtSignature_eq_pow {p q d e qInv : Nat} (hp : KeyPrime p d e) (hq : KeyPrime q d e)
    (hinv : qInv * q ≡ 1 [MOD p]) (m : Nat) :
    crtSignature m p q (d % (p - 1)) (d % (q - 1)) qInv = m ^ d % (p * q) := by
  have hmodEq : crtSignature m p q (d % (p - 1)) (d % (q - 1)) qInv ≡ m ^ d [MOD p * q] :=
    (Nat.modEq_and_modEq_iff_modEq_mul (coprime_of_mul_modEq_one hinv)).mp
      ⟨(crtSignature_modEq_left hp.prime.pos hinv ..).trans (hp.pow_mod_pred_modEq m),
        (crtSignature_modEq_right hp.prime.pos ..).trans (hq.pow_mod_pred_modEq m)⟩
  obtain ⟨h, -, hsig⟩ := crtSignature_eq hp.prime.pos m q (d % (p - 1)) (d % (q - 1)) qInv
  rw [← hmodEq, hsig, Nat.mod_mod]

/-- For a valid key opening the power by d gives the message back. -/
theorem pow_mod_pow_mod_eq_self {p q d e : Nat} (hp : KeyPrime p d e) (hq : KeyPrime q d e)
    (hcoprime : Nat.Coprime p q) {m : Nat} (hm : m < p * q) : (m ^ d % (p * q)) ^ e % (p * q) = m := by
  have hmodEq : m ^ (d * e) ≡ m [MOD p * q] := (Nat.modEq_and_modEq_iff_modEq_mul hcoprime).mp
    ⟨hp.pow_mul_modEq_self m, hq.pow_mul_modEq_self m⟩
  rw [← Nat.pow_mod, ← pow_mul]
  exact Nat.mod_eq_of_modEq hmodEq hm

/-! ### The obligations -/

/-- Settles O28: the four cases are the branches of CRTSIGN, the last with the formula over the integers. -/
theorem crtsignRunsTheCrtFormula : Obligations.CrtsignRunsTheCrtFormula := by
  refine ⟨formatOf _, ?_⟩
  rintro rd rs1 rs2 s _ _ _ _ _ _ hrs2 rfl rfl rfl rfl rfl rfl
  have hexec := exec_crtsign hrs2 rd rs1 s
  refine ⟨fun heven => ?_, fun hp hq hover => ?_, fun hp hq hfits hout => ?_, fun hp hq hfits hm => ?_⟩
  · exact errs_of_raise (hexec.trans (if_pos heven))
  · exact errs_of_raise ((hexec.trans (if_neg (by omega))).trans (if_pos hover))
  · exact errs_of_raise (((hexec.trans (if_neg (by omega))).trans (if_neg (Nat.not_le.mpr hfits))).trans (if_pos hout))
  · obtain ⟨h, hh, hsig⟩ := crtSignature_eq (p := s.x rs2) (by omega) (s.x rs1) (s.x (member rs2 1))
      (s.x (member rs2 2)) (s.x (member rs2 3)) (s.x (member rs2 4))
    exact ⟨h, hh, hsig ▸ writes_crtsign hrs2 hp hq hfits hm rd⟩

/-- Settles O29: the three cases are the branches of VERIFY, and the verdict is that of the opened signature. -/
theorem verifyComparesTheOpenedSignature : Obligations.VerifyComparesTheOpenedSignature := by
  refine ⟨formatOf _, ?_⟩
  rintro rd rs1 rs2 s _ _ _ _ hrs2 rfl rfl rfl rfl
  have hexec := exec_verify hrs2 rd rs1 s
  refine ⟨fun heven => ?_, fun hodd hout => ?_, fun hodd hm => ?_⟩
  · exact errs_of_raise (hexec.trans (if_pos heven))
  · exact errs_of_raise ((hexec.trans (if_neg (by omega))).trans (if_pos hout))
  · refine ⟨_, writes_of_complete_setX ((hexec.trans (if_neg (by omega))).trans (if_neg (Nat.not_le.mpr hm))), ?_⟩
    exact isVerdict_verdict (by rw [beq_iff_eq, powMod_eq])

/-- Settles O30: for a valid key the CRT formula is the power by d, which is what MODEXP computes and what VERIFY opens
to the message. -/
theorem crtSignatureIsThePowerAndVerifies : Obligations.CrtSignatureIsThePowerAndVerifies := by
  rintro rd rs1 rs2 s _ _ _ d e hrs2 rfl rfl rfl hprimeP hprimeQ hoddP hoddQ hde hdP hdQ hinv hfits hm
  obtain ⟨hdeP, hdeQ⟩ := one_modEq_of_mod_lcm hde
  have hp := KeyPrime.of_odd hprimeP hoddP hdeP
  have hq := KeyPrime.of_odd hprimeQ hoddQ hdeQ
  have hinvMod : s.x (member rs2 4) * s.x (member rs2 1) ≡ 1 [MOD s.x rs2] :=
    hinv.trans (Nat.mod_eq_of_lt hprimeP.one_lt).symm
  refine ⟨?_, fun rm r1 r2 u hmodv hmodulus hx1 hx2 => ?_, fun rv r1 r2 u hr2 hx1 hsig hx3 hx4 => ?_⟩
  · have hwrites := writes_crtsign hrs2 hoddP hoddQ hfits hm rd
    rwa [hdP, hdQ, crtSignature_eq_pow hp hq hinvMod] at hwrites
  · have hwrites := (modexpIsThePowerModMod.2 rm r1 r2 u).2 hmodv
    rwa [hmodulus, hx1, hx2, ← Nat.pow_mod] at hwrites
  · have hoddN : s.x rs2 * s.x (member rs2 1) % 2 = 1 := by rw [Nat.mul_mod, hoddP, hoddQ]
    obtain ⟨-, -, hverify⟩ := verifyComparesTheOpenedSignature.2 rv r1 r2 u _ _ _ _ hr2 hx1.symm hsig.symm hx3.symm
      hx4.symm
    obtain ⟨v, hwrites, hverdict, -⟩ := hverify hoddN hm
    rwa [hverdict (pow_mod_pow_mod_eq_self hp hq (coprime_of_mul_modEq_one hinvMod) hm)] at hwrites

end Sys2Proof.Proofs
end

section
/-!
PROOFS. The block-hash validator POWCHK and BLKCHK (46_pow.md R180, R181). Neither has a check before it: a hash at or
above the target and a mismatch are verdicts, not errors, so each meaning is one write of a verdict and the completion.
-/

namespace Sys2Proof.Proofs

open Sys2Proof.Machine Sys2Proof.Laws Sys2Proof.Claims

/-! ### The meanings of POWCHK and BLKCHK -/

theorem exec_powchk (rd rs1 : Reg) (imm : Imm) (s : State) : exec (.powchk rd rs1 imm) s =
    (s.setX rd (verdict (decide (s.x rs1 < 2 ^ imm.toNat)))).complete := rfl

theorem exec_blkchk (rd rs1 rs2 : Reg) (imm : Imm) (s : State) : exec (.blkchk rd rs1 rs2 imm) s =
    (s.setX rd (verdict (s.x rs1 == s.x rs2 && decide (s.x rs2 < 2 ^ imm.toNat)))).complete := rfl

/-! ### The obligations -/

/-- Settles O31: what is written is the verdict of the strict comparison with the target. -/
theorem powchkComparesWithTheTarget : Obligations.PowchkComparesWithTheTarget := by
  refine ⟨formatOf _, fun rd rs1 imm s => ⟨_, writes_of_complete_setX (exec_powchk rd rs1 imm s), ?_⟩⟩
  exact isVerdict_verdict decide_eq_true_iff

/-- Settles O32: what is written is the verdict of the match together with the strict comparison of the stored hash
with the target. -/
theorem blkchkNeedsAMatchBelowTheTarget : Obligations.BlkchkNeedsAMatchBelowTheTarget := by
  refine ⟨formatOf _, fun rd rs1 rs2 imm s => ⟨_, writes_of_complete_setX (exec_blkchk rd rs1 rs2 imm s), ?_⟩⟩
  exact isVerdict_verdict (by rw [Bool.and_eq_true, beq_iff_eq, decide_eq_true_iff])

end Sys2Proof.Proofs
end

section
/-!
PROOFS. The encoder and the decoder are inverse to each other (30_encoding.md sections 1 to 3), the assembler emits
legal words only (section 5), and a meaning given a group that does not fit refuses it.
-/

namespace Sys2Proof.Proofs

open Sys2Proof.Machine Sys2Proof.Laws Sys2Proof.Claims

/-- The word of an opcode's command with the word's own fields, those it does not use being 0, is the word. -/
theorem encode_of_commandAt {c : Word} {i : Instr} (hclear : UnusedClear (fieldUse i) c)
    (h : commandAt (regOf (rdField c)) (regOf (rs1Field c)) (regOf (rs2Field c)) (immField c) (op c) = some i) :
    encode i = c := by
  obtain ⟨hrsv, hrd, hrs1, hrs2, himm⟩ := hclear
  have hword := commandWordOf_fields c hrsv
  have hop : opField c = BitVec.ofNat 5 (op c) := by rw [op_eq, BitVec.ofNat_toNat, BitVec.setWidth_eq]
  rw [hop] at hword
  generalize op c = n at h hword
  unfold commandAt at h
  split at h <;> cases h <;> simp_all [encode, fieldUse]

/-- An accepted word is the word of the command it decodes to, and that command's group fits. -/
theorem encode_of_decode {c : Word} {i : Instr} (h : decode c = .ok i) : encode i = c ∧ i.wellFormed = true := by
  have hcommand := commandOfWord_of_decode h
  rw [decode_of_command hcommand, checked_eq_ok_iff] at h
  obtain ⟨hclear, hwf, -⟩ := h
  exact ⟨encode_of_commandAt hclear ((commandOfWord_eq c).symm.trans hcommand), hwf⟩

/-- The assembler accepts no command whose group does not fit (30_encoding.md R90). -/
theorem wellFormed_of_assembleLine {line : List Char} {i : Instr} (h : assembleLine line = some i) :
    i.wellFormed = true := by
  simp only [assembleLine] at h
  split at h
  · cases h
  · split at h
    · cases h
    · split at h
      · cases h
        assumption
      · cases h

/-! ### The obligations -/

/-- Settles O2: the fields read back are those the encoder put in, and the checks pass. -/
theorem decodeOfEncodeIsTheCommand : Obligations.DecodeOfEncodeIsTheCommand := fun _ => decode_encode_of_wellFormed

/-- Settles O3: an accepted word has nothing in RSV or in a field its command does not use. -/
theorem encodeOfDecodeIsTheWord : Obligations.EncodeOfDecodeIsTheWord := fun _ _ => encode_of_decode

/-- Settles O59: what the assembler accepts is well formed, and the word of a well-formed command decodes. -/
theorem assemblerEmitsOnlyLegalWords : Obligations.AssemblerEmitsOnlyLegalWords :=
  fun _ _ h => decode_encode_of_wellFormed (wellFormed_of_assembleLine h)

/-- Settles O7: the group check stands before every other check of the three meanings. -/
theorem meaningsRefuseIllFormedGroups : Obligations.MeaningsRefuseIllFormedGroups := fun rd rs1 rs2 _ =>
  ⟨fun h => errs_of_raise (i := .xgcd rd rs1 rs2) (withGroup_of_not_fits (by omega) ..),
    fun h => errs_of_raise (i := .crtsign rd rs1 rs2) (withGroup_of_not_fits (by omega) ..),
    fun h => errs_of_raise (i := .verify rd rs1 rs2) (withGroup_of_not_fits (by omega) ..)⟩

end Sys2Proof.Proofs
end

section
/-!
PROOFS. What a command can do, said once: `Ends i s t` lists the four ways in which `exec i s` reaches a next state `t`,
and `exec_endsIn` says that there is no other. The frame of every command (10_state.md R37) and the precision of its
errors (60_exceptions.md R202) are read off it.
-/

namespace Sys2Proof.Proofs

open Sys2Proof.Machine Sys2Proof.Laws Sys2Proof.Claims

/-! ### The operand registers a command writes -/

/-- `u` is `s` after writes to registers of `ds` of values that fit, if the registers of `s` do. -/
structure Wrote (ds : List Reg) (s u : State) : Prop where
  onlyRegs : OnlyRegs s u
  except : State.RegsExcept ds s u
  fits : s.Inv → ∀ k, u.x k < s.radix

theorem wrote_nothing (ds : List Reg) (s : State) : Wrote ds s s := ⟨rfl, fun _ _ => rfl, fun h => h.regsFit⟩

theorem Wrote.setX {ds : List Reg} {s u : State} (h : Wrote ds s u) {r : Reg} (hr : r ∈ ds) {v : Nat}
    (hv : s.Inv → v < s.radix) : Wrote ds s (u.setX r v) where
  onlyRegs := by
    rw [OnlyRegs, State.setX, h.onlyRegs]
  except k hk := (setX_x_ne u v fun hkr : k = r => hk (hkr ▸ hr)).trans (h.except k hk)
  fits hinv k := by
    rw [setX_x]
    split
    · exact hv hinv
    · exact h.fits hinv k

/-- Only the operand registers differ, so every other field is as before. -/
theorem onlyRegs_frame {s u : State} (h : OnlyRegs s u) :
    s.SameConstants u ∧ u.modv = s.modv ∧ s.SameErrors u ∧ s.SameRest u := by
  rw [h]
  exact ⟨⟨rfl, rfl, rfl⟩, rfl, ⟨rfl, rfl, rfl⟩, ⟨rfl, rfl, rfl, rfl, rfl⟩⟩

/-! ### The ways a command ends -/

/-- `t` is a way in which the command `i` can end at `s`: with writes to its destinations, with an error raised, or, for
SETMOD, with an odd modulus loaded or the modulus dropped (41_montgomery.md R120). -/
inductive Ends (i : Instr) (s : State) : State → Prop
  | writes {u : State} (hi : ¬ IsSetmod i) (hu : Wrote (dests i) s u) : Ends i s u.retire
  | raises {code : ErrCode} (hi : ¬ IsSetmod i) (hcode : code ≠ .none) :
      Ends i s (s.recordError code (s.commandWord i)).retire
  | loads {r : Reg} (hi : i = .setmod r) (hodd : s.x r % 2 = 1) : Ends i s (s.loadModulus (s.x r)).retire
  | drops {r : Reg} (hi : i = .setmod r) : Ends i s (s.dropModulus.recordError .modulus (s.commandWord i)).retire

/-- The outcome goes on, in a state in which `i` can end. -/
def EndsIn (i : Instr) (s : State) (o : Host.Outcome State Fault Refusal) : Prop := ∃ t, o = .next t ∧ Ends i s t

section Rules

variable {i : Instr} {s : State}

theorem endsIn_complete (hi : ¬ IsSetmod i) {u : State} (hu : Wrote (dests i) s u) : EndsIn i s u.complete :=
  ⟨u.retire, rfl, .writes hi hu⟩

theorem endsIn_setX (hi : ¬ IsSetmod i) {rd : Reg} {v : Nat} (hrd : rd ∈ dests i) (hv : s.Inv → v < s.radix) :
    EndsIn i s (s.setX rd v).complete :=
  endsIn_complete hi ((wrote_nothing _ s).setX hrd hv)

theorem endsIn_raise (hi : ¬ IsSetmod i) {code : ErrCode} (hcode : code ≠ .none) : EndsIn i s (s.raise code i) :=
  ⟨_, rfl, .raises hi hcode⟩

theorem endsIn_ite {c : Prop} [Decidable c] {o o' : Host.Outcome State Fault Refusal} (ho : c → EndsIn i s o)
    (ho' : ¬ c → EndsIn i s o') : EndsIn i s (if c then o else o') := by
  split
  · exact ho ‹c›
  · exact ho' ‹¬ c›

/-- A check that raises an error before the rest of the command. -/
theorem endsIn_check (hi : ¬ IsSetmod i) {c : Prop} [Decidable c] {code : ErrCode}
    {o : Host.Outcome State Fault Refusal} (ho : ¬ c → EndsIn i s o) (hcode : code ≠ .none := by decide) :
    EndsIn i s (if c then s.raise code i else o) :=
  endsIn_ite (fun _ => endsIn_raise hi hcode) ho

theorem endsIn_withModulus (hi : ¬ IsSetmod i) {go : Host.Outcome State Fault Refusal}
    (hgo : s.modv = true → EndsIn i s go) : EndsIn i s (s.withModulus i go) :=
  endsIn_ite hgo fun _ => endsIn_raise hi nofun

theorem endsIn_withInDomain (hi : ¬ IsSetmod i) {go : Host.Outcome State Fault Refusal} (hgo : EndsIn i s go)
    (vs : List Nat) : EndsIn i s (s.withInDomain vs i go) :=
  endsIn_ite (fun _ => hgo) fun _ => endsIn_raise hi nofun

theorem endsIn_withGroup (hi : ¬ IsSetmod i) {go : Host.Outcome State Fault Refusal} (hgo : EndsIn i s go)
    (base : Reg) (size : Nat) : EndsIn i s (s.withGroup base size i go) :=
  endsIn_ite (fun _ => hgo) fun _ => endsIn_raise hi nofun

end Rules

/-! ### The results fit (40_control.md R108) -/

theorem two_pow_32_le_radix (s : State) : 2 ^ 32 ≤ s.radix :=
  Nat.pow_le_pow_right two_pos (by rw [State.width, State.nw]; omega)

theorem verdict_lt_two (b : Bool) : verdict b < 2 := by cases b <;> decide

theorem verdict_lt_radix (b : Bool) (s : State) : verdict b < s.radix := by
  have hv := verdict_lt_two b
  have hradix := two_pow_32_le_radix s
  omega

/-- The two verdict bits of RSACHK (44_prime.md R161). -/
theorem verdict_pair_lt_radix (b b' : Bool) (s : State) : verdict b + 2 * verdict b' < s.radix := by
  have hv := verdict_lt_two b
  have hv' := verdict_lt_two b'
  have hradix := two_pow_32_le_radix s
  omega

/-- A remainder modulo a loaded MOD is a W-bit value. -/
theorem mod_modulus_lt_radix {s : State} (hinv : s.Inv) (hmodv : s.modv = true) (v : Nat) :
    v % s.modulus < s.radix := by
  have hodd := hinv.modvLoaded hmodv
  exact (Nat.mod_lt v (by omega)).trans hinv.modulusFits

theorem bitlen_lt_radix {s : State} {v : Nat} (hv : v < s.radix) : bitlen v < s.radix :=
  ((bitlen_le_iff v s.width).mpr hv).trans_lt Nat.lt_two_pow_self

theorem gcd_lt {a b bound : Nat} (ha : a < bound) (hb : b < bound) : Nat.gcd a b < bound := by
  obtain rfl | hpos := Nat.eq_zero_or_pos a
  · rwa [Nat.gcd_zero_left]
  · exact (Nat.gcd_le_left b hpos).trans_lt ha

/-! ### Every command -/

/-- A command with the checks of 41_montgomery.md R126 whose result is a remainder modulo MOD. -/
theorem ChecksThenWrites.endsIn {i : Instr} {s : State} {operands : List Nat} {rd : Reg} {w : Nat}
    (h : ChecksThenWrites i s operands rd (w % s.modulus)) (hi : ¬ IsSetmod i) (hrd : rd ∈ dests i) :
    EndsIn i s (exec i s) := by
  rw [h]
  exact endsIn_withModulus hi fun hmodv => endsIn_withInDomain hi
    (endsIn_setX hi hrd fun hinv => mod_modulus_lt_radix hinv hmodv w) operands

/-- SETMOD loads an odd modulus, or drops the modulus and raises MODULUS (41_montgomery.md R120). -/
theorem setmod_endsIn (rs1 : Reg) (s : State) : EndsIn (.setmod rs1) s (exec (.setmod rs1) s) := by
  obtain heven | hodd := Nat.mod_two_eq_zero_or_one (s.x rs1)
  · exact ⟨_, exec_setmod_of_even heven, .drops rfl⟩
  · exact ⟨_, exec_setmod_of_odd hodd, .loads rfl hodd⟩

/-- Every command ends in one of the ways of `Ends`. -/
theorem exec_endsIn (i : Instr) (s : State) : EndsIn i s (exec i s) := by
  by_cases hset : IsSetmod i
  · obtain ⟨r, rfl⟩ := hset
    exact setmod_endsIn r s
  have here (r : Reg) : r ∈ [r] := List.mem_singleton_self r
  cases i with
  | setmod rs1 => exact absurd ⟨rs1, rfl⟩ hset
  | nop => exact endsIn_complete hset (wrote_nothing _ s)
  | copy rd rs1 => exact endsIn_setX hset (here rd) fun hinv => hinv.regsFit rs1
  | cmpeq rd rs1 rs2 => exact endsIn_setX hset (here rd) fun _ => verdict_lt_radix _ s
  | mul rd rs1 rs2 =>
    rw [exec, execMul]
    exact endsIn_check hset fun hfits => endsIn_setX hset (here rd) fun _ => Nat.not_le.mp hfits
  | bitlen rd rs1 => exact endsIn_setX hset (here rd) fun hinv => bitlen_lt_radix (hinv.regsFit rs1)
  | montmul rd rs1 rs2 => exact (checks_montmul rd rs1 rs2 s).endsIn hset (here rd)
  | modmul rd rs1 rs2 => exact (checks_modmul rd rs1 rs2 s).endsIn hset (here rd)
  | tomont rd rs1 => exact (checks_tomont rd rs1 s).endsIn hset (here rd)
  | frommont rd rs1 => exact (checks_frommont rd rs1 s).endsIn hset (here rd)
  | reduce rd rs1 => exact (checks_reduce rd rs1 s).endsIn hset (here rd)
  | modexp rd rs1 rs2 => exact (checks_modexp_pow rd rs1 rs2 s).endsIn hset (here rd)
  | xgcd rd rs1 rs2 =>
    have hgcd (hinv : s.Inv) : (xgcd (s.x rs1) (s.x rs2)).r0 < s.radix :=
      (xgcd_spec _ _).1 ▸ gcd_lt (hinv.regsFit rs1) (hinv.regsFit rs2)
    refine endsIn_withGroup hset (endsIn_complete hset ((((wrote_nothing _ s).setX ?_ hgcd).setX ?_
      fun _ => twos_lt _ _).setX ?_ fun _ => twos_lt _ _)) rd 3
    · rw [groupReg_zero]
      exact .head _
    · exact .tail _ (.head _)
    · exact .tail _ (.tail _ (.head _))
  | modinv rd rs1 rs2 =>
    rw [exec, execModinv]
    refine endsIn_check hset fun hinvertible => endsIn_setX hset (here rd) fun hinv => ?_
    exact (invMod_lt _ (Nat.pos_of_ne_zero (not_or.mp hinvertible).1)).trans (hinv.regsFit rs2)
  | mrtest rd rs1 rs2 =>
    rw [exec, execMrtest]
    exact endsIn_ite (fun _ => endsIn_setX hset (here rd) fun _ => verdict_lt_radix true s) fun _ =>
      endsIn_ite (fun _ => endsIn_setX hset (here rd) fun _ => verdict_lt_radix false s) fun _ =>
        endsIn_check hset fun _ =>
          endsIn_setX hset (here rd) fun _ => verdict_lt_radix _ s
  | rsachk rd rs1 rs2 imm => exact endsIn_setX hset (here rd) fun _ => verdict_pair_lt_radix _ _ s
  | crtsign rd rs1 rs2 =>
    rw [exec, execCrtsign]
    refine endsIn_withGroup hset (endsIn_check hset fun _ =>
      endsIn_check hset fun hfits =>
        endsIn_check hset fun hm =>
          endsIn_setX hset (here rd) fun _ => ?_) rs2 5
    exact (Nat.mod_lt _ (Nat.zero_lt_of_lt (Nat.not_le.mp hm))).trans (Nat.not_le.mp hfits)
  | verify rd rs1 rs2 =>
    rw [exec, execVerify]
    exact endsIn_withGroup hset (endsIn_check hset fun _ =>
      endsIn_check hset fun _ =>
        endsIn_setX hset (here rd) fun _ => verdict_lt_radix _ s) rs2 3
  | powchk rd rs1 imm => exact endsIn_setX hset (here rd) fun _ => verdict_lt_radix _ s
  | blkchk rd rs1 rs2 imm => exact endsIn_setX hset (here rd) fun _ => verdict_lt_radix _ s

/-- A next state of a command is one of its ends. -/
theorem ends_of_exec {i : Instr} {s t : State} (h : exec i s = .next t) : Ends i s t := by
  obtain ⟨t', ht', hends⟩ := exec_endsIn i s
  rw [h] at ht'
  cases ht'
  exact hends

/-! ### The frame as the bus reads it -/

/-- The words that a region of the map holds (20_memory.md R53), as far as a command can change what they read. -/
def HoldsWord : Region → Nat → Prop
  | .status, w => w = 3
  | .errinfo, w => w = 5
  | .x i j, w => j < 256 ∧ w = xWord i j
  | .modulus _, w | .nprime _, w | .r2 _, w => 0xC00 ≤ w ∧ w < 0xF00
  | .id, _ | .param, _ | .ctrl, _ | .cmd, _ | .reserved, _ => True

theorem holdsWord_region (a : Addr) : HoldsWord (region a) (wordNumber a) := by
  change HoldsWord (regionOfWord (wordNumber a)) (wordNumber a)
  obtain hcontrol | hbands := Nat.lt_or_ge (wordNumber a) 6
  · generalize wordNumber a = w at hcontrol
    interval_cases w <;> trivial
  · rw [regionOfWord_bands hbands]
    split_ifs with hreserved hx
    · trivial
    · refine ⟨Nat.mod_lt _ (by decide), ?_⟩
      simp only [xWord]
      omega
    · exact ⟨by omega, by omega⟩
    · exact ⟨by omega, by omega⟩
    · exact ⟨by omega, by omega⟩
    · trivial

/-! ### The obligations -/

/-- Settles O9: each end of a command is a retired state. -/
theorem everyCommandCompletes : Obligations.EveryCommandCompletes := exec_completes

/-- Settles O33: of the four ends only the first writes operand registers, and only SETMOD has the last two. -/
theorem onlyDestinationsAreWritten : Obligations.OnlyDestinationsAreWritten := by
  intro i s t h
  cases ends_of_exec h with
  | writes hi hu =>
    obtain ⟨⟨hmodulus, hnprime, hr2⟩, hmodv, -, ⟨hie, heie, hnw, hlog, hinputs⟩⟩ := onlyRegs_frame hu.onlyRegs
    exact ⟨hu.except, fun _ => ⟨⟨hmodulus, hnprime, hr2⟩, hmodv⟩, ⟨hie, heie, hnw, hlog, hinputs⟩⟩
  | raises hi =>
    exact ⟨fun _ _ => recordError_x .., fun _ => ⟨⟨by simp, by simp, by simp⟩, by simp⟩,
      ⟨by simp, by simp, by simp, by simp, by simp⟩⟩
  | loads hi => exact ⟨fun _ _ => rfl, fun hnot => absurd ⟨_, hi⟩ hnot, ⟨rfl, rfl, rfl, rfl, rfl⟩⟩
  | drops hi =>
    exact ⟨fun _ _ => recordError_x .., fun hnot => absurd ⟨_, hi⟩ hnot,
      ⟨by simp, by simp, by simp, by simp, by simp⟩⟩

/-- Settles O34: an end with ERR newly set is one that raises, with the modulus dropped for SETMOD. -/
theorem failingCommandWritesNoResult : Obligations.FailingCommandWritesNoResult := by
  intro i s t h hbefore hafter
  cases ends_of_exec h with
  | writes hi hu =>
    obtain ⟨-, -, ⟨herr, -, -⟩, -⟩ := onlyRegs_frame hu.onlyRegs
    rw [retire_err, herr, hbefore] at hafter
    cases hafter
  | raises hi =>
    exact ⟨retire_completed _, fun _ _ => recordError_x .., ⟨by simp, by simp, by simp⟩, fun _ => by simp,
      fun hset => absurd hset hi⟩
  | loads hi =>
    rw [retire_err, loadModulus_err, hbefore] at hafter
    cases hafter
  | drops hi =>
    exact ⟨retire_completed _, fun _ _ => recordError_x .., ⟨by simp, by simp, by simp⟩,
      fun hnot => absurd ⟨_, hi⟩ hnot, fun _ => by simp⟩

/-- Settles O35: what a region reads is a field that the frame of the command keeps, or the address is excluded. -/
theorem commandsLeaveOtherAddressesAlone : Obligations.CommandsLeaveOtherAddressesAlone := by
  intro i s t a h hstatus herrinfo hdests hsetmod
  obtain ⟨hregs, hconstants, hrest⟩ := onlyDestinationsAreWritten i s t h
  have hnw : t.nw = s.nw := by rw [State.nw, hrest.nwIndex, State.nw]
  have hword := holdsWord_region a
  have hmodulus (hin : 0xC00 ≤ wordNumber a ∧ wordNumber a < 0xF00) : s.SameConstants t :=
    (hconstants fun hset => by have := hsetmod hset; omega).1
  rw [State.busRead, State.busRead]
  cases hr : region a with
  | id | cmd | reserved => rfl
  | param => simp only [State.paramWord, hnw]
  | ctrl => simp only [State.ctrlWord, hrest.ie, hrest.eie]
  | status => rw [hr] at hword; exact absurd hword hstatus
  | errinfo => rw [hr] at hword; exact absurd hword herrinfo
  | x k j =>
    rw [hr] at hword
    simp only [State.windowWord, hnw, hregs k fun hk => hdests k hk j hword.1 hword.2]
  | modulus j => rw [hr] at hword; simp only [State.windowWord, hnw, (hmodulus hword).modulus]
  | nprime j => rw [hr] at hword; simp only [State.windowWord, hnw, (hmodulus hword).nprime]
  | r2 j => rw [hr] at hword; simp only [State.windowWord, hnw, (hmodulus hword).r2]

end Sys2Proof.Proofs
end

section
/-!
PROOFS. The words of the register windows: what a write of one word leaves of the others (20_memory.md sections 3 to 5),
and the NW word writes of `ld` (30_encoding.md R92).
-/

namespace Sys2Proof.Proofs

open Sys2Proof.Machine Sys2Proof.Laws Sys2Proof.Claims

/-! ### Words of a value -/

theorem getLsbD_wordOf (v j b : Nat) : (wordOf v j).getLsbD b = (decide (b < 32) && v.testBit (32 * j + b)) := by
  rw [wordOf, BitVec.getLsbD_ofNat, Nat.testBit_div_two_pow, Nat.add_comm]

/-- Replacing one word leaves every other word (20_memory.md R56). -/
theorem wordOf_replaceWord_ne {j m : Nat} (h : m ≠ j) (v : Nat) (w : Word) :
    wordOf (replaceWord v j w) m = wordOf v m := by
  apply BitVec.eq_of_getLsbD_eq
  intro b hb
  rw [getLsbD_wordOf, getLsbD_wordOf, testBit_replaceWord, if_neg (by omega)]

/-- A value of NW words with one of them replaced is a value of NW words. -/
theorem replaceWord_lt {v j nw : Nat} (hj : j < nw) (hv : v < 2 ^ (32 * nw)) (w : Word) :
    replaceWord v j w < 2 ^ (32 * nw) := by
  apply Nat.lt_pow_two_of_testBit
  intro b hb
  rw [testBit_replaceWord, if_neg (by omega)]
  exact Nat.testBit_lt_two_pow (hv.trans_le (Nat.pow_le_pow_right two_pos hb))

/-! ### One word write -/

theorem nw_le (s : State) : s.nw ≤ 256 := s.nwIndex.isLt

/-- An accepted write of a word of Xi replaces that word (20_memory.md R56). -/
theorem busWrite_xWord {s : State} {i : Reg} {j : Nat} {a : Addr} (hidle : s.busy = false) (hj : j < s.nw)
    (ha : wordNumber a = xWord i j) (v : Word) : s.busWrite a v = s.setX i (replaceWord (s.x i) j v) := by
  rw [busWrite_x_of_idle (region_xWord (hj.trans_le (nw_le s)) ha) hidle, if_pos hj]

/-- A word of a register window is another word than `j` of Xi when its number is another. -/
theorem xWord_ne {i k : Reg} {j m : Nat} (h : xWord k m ≠ xWord i j) (hk : k = i) : m ≠ j := by
  rintro rfl
  exact h (by rw [hk])

/-! ### The word writes of `ld` -/

/-- A run takes the step and goes on. -/
theorem run_succ_of_step {s s' : State} (h : step s = .next s') (k : Nat) :
    Sys2Proof.core.run (k + 1) s = Sys2Proof.core.run k s' := by
  have hstep : Sys2Proof.core.step s = .next s' := h
  simp only [Host.Core.run, hstep]

theorem wordNumber_xAddr (i : Reg) {j : Nat} (hj : j < 256) : wordNumber (xAddr i j) = xWord i j := by
  have hi := i.isLt
  rw [wordNumber, xAddr, xWord, BitVec.toNat_ofNat]
  omega

/-- The cycle of an accepted word write replaces that word. -/
theorem step_of_wordWrite {s : State} {i : Reg} {j : Nat} {w : Word} {cs : List Cycle}
    (h : s.inputs = busCycle (.write (xAddr i j) w) :: cs) (hidle : s.busy = false) (hj : j < s.nw) :
    step s = .next (State.setX { s with inputs := cs } i (replaceWord (s.x i) j w)) :=
  (step_of_busCycle h).trans (congrArg _ (busWrite_xWord (s := { s with inputs := cs }) hidle hj
    (wordNumber_xAddr i (hj.trans_le (nw_le s))) w))

/-- The cycles that write the words `j` to `j + k − 1` of `v` to Xi. -/
def wordWrites (i : Reg) (v j k : Nat) : List Cycle :=
  (List.range' j k).map fun m => busCycle (.write (xAddr i m) (wordOf v m))

/-- `t` is `s` with the words `j` to `j + k − 1` of Xi taken from `v` and nothing more presented. -/
structure LoadedWords (i : Reg) (v j k : Nat) (s t : State) : Prop where
  onlyRegs : t = { s with regs := t.regs, inputs := [] }
  others : ∀ m, m ≠ i → t.x m = s.x m
  bits : ∀ b, (t.x i).testBit b = if 32 * j ≤ b ∧ b < 32 * (j + k) then v.testBit b else (s.x i).testBit b

/-- Writing word `j` first and the words after it then is writing all of them. -/
theorem loadedWords_cons {i : Reg} {v j k : Nat} {s t : State} {cs : List Cycle}
    (h : LoadedWords i v (j + 1) k
      (State.setX { s with inputs := cs } i (replaceWord (s.x i) j (wordOf v j))) t) :
    LoadedWords i v j (k + 1) s t where
  onlyRegs := h.onlyRegs
  others m hm := (h.others m hm).trans (setX_x_ne _ _ hm)
  bits b := by
    rw [h.bits, setX_x_self, testBit_replaceWord, getLsbD_wordOf]
    by_cases hword : 32 * j ≤ b ∧ b ≤ 32 * j + 31
    · rw [if_neg (by omega), if_pos hword, if_pos (by omega), Nat.add_sub_cancel' hword.1, decide_eq_true (by omega),
        Bool.true_and]
    · rw [if_neg hword]
      exact ite_congr (propext (by omega)) (fun _ => rfl) fun _ => rfl

/-- Presented while idle, the word writes load their words, one in each step. -/
theorem run_wordWrites (i : Reg) (v : Nat) : ∀ (k j : Nat) (s : State), s.busy = false → j + k ≤ s.nw →
    s.inputs = wordWrites i v j k → ∃ t, Sys2Proof.core.run k s = .next t ∧ LoadedWords i v j k s t := by
  intro k
  induction k with
  | zero =>
    intro j s _ _ hinputs
    have hempty : s.inputs = [] := hinputs
    exact ⟨s, rfl, by rw [← hempty], fun _ _ => rfl, fun b => by rw [if_neg (by omega)]⟩
  | succ k ih =>
    intro j s hidle hfit hinputs
    have hj : j < s.nw := by omega
    have hfit' : j + 1 + k ≤ s.nw := by omega
    have hstep := step_of_wordWrite (cs := wordWrites i v (j + 1) k) hinputs hidle hj
    obtain ⟨t, ht, hloaded⟩ := ih (j + 1)
      (State.setX { s with inputs := wordWrites i v (j + 1) k } i (replaceWord (s.x i) j (wordOf v j))) hidle hfit' rfl
    exact ⟨t, (run_succ_of_step hstep k).trans ht, loadedWords_cons hloaded⟩

/-! ### The obligations -/

/-- Settles O43: the write is a replaced word of one register, which reads back, and every region of another word
reads a field or a word that stays. -/
theorem windowWordsReadBackAndOthersStay : Obligations.WindowWordsReadBackAndOthersStay := by
  intro s i j a v hidle hj ha
  rw [busWrite_xWord hidle hj ha]
  constructor
  · simp only [State.busRead, region_xWord (hj.trans_le (nw_le s)) ha, State.windowWord, setX_x_self, setX_nw,
      if_pos hj, wordOf_replaceWord_self]
  · intro b hb
    have hword := holdsWord_region b
    rw [State.busRead, State.busRead]
    cases hr : region b with
    | x k m =>
      rw [hr] at hword
      rw [hword.2, ha] at hb
      simp only [State.windowWord, setX_nw, setX_x]
      by_cases hk : k = i
      · rw [if_pos hk, hk, wordOf_replaceWord_ne (xWord_ne hb hk)]
      · rw [if_neg hk]
    | id | param | ctrl | status | cmd | errinfo | modulus | nprime | r2 | reserved => rfl

/-- Settles O44: the map is a function of the word number. -/
theorem addressBitsOneAndZeroAreIgnored : Obligations.AddressBitsOneAndZeroAreIgnored := by
  intro s a b h
  have hregion : region a = region b := congrArg regionOfWord h
  refine ⟨by rw [State.busRead, hregion, State.busRead], fun v hidle => ?_⟩
  rw [busWrite_of_idle hidle, busWrite_of_idle hidle, State.writeIdle, hregion, State.writeIdle]

/-- Settles O60: all NW words of Xi come from `v`, and neither value has a bit beyond them. -/
theorem ldLoadsTheValue : Obligations.LdLoadsTheValue := by
  intro s i v hidle hx hv hinputs
  rw [hostOpCycles, List.range_eq_range'] at hinputs
  obtain ⟨t, ht, honly, hothers, hbits⟩ := run_wordWrites i v s.nw 0 s hidle (by omega) hinputs
  refine ⟨t, ht, Nat.eq_of_testBit_eq fun b => ?_, hothers, congrArg State.inputs honly, honly⟩
  rw [hbits]
  split
  · rfl
  · have hbeyond : 2 ^ (32 * s.nw) ≤ 2 ^ b := Nat.pow_le_pow_right two_pos (by omega)
    rw [Nat.testBit_lt_two_pow (hx.trans_le hbeyond), Nat.testBit_lt_two_pow (hv.trans_le hbeyond)]

end Sys2Proof.Proofs
end

section
/-!
PROOFS. The events of one clock cycle (60_exceptions.md R204): the transaction, which changes nothing that a command in
flight reads, then the completion; and reset, which wins over both (70_reset_and_hazards.md R230).
-/

namespace Sys2Proof.Proofs

open Sys2Proof.Machine Sys2Proof.Laws Sys2Proof.Claims

/-! ### What a command reads -/

/-- What the results of a command depend on, beside the command itself: the width, the operand registers and the
modulus state. -/
structure SameOperands (s t : State) : Prop where
  nwIndex : t.nwIndex = s.nwIndex
  regs : t.regs = s.regs
  modulus : t.modulus = s.modulus
  nprime : t.nprime = s.nprime
  r2 : t.r2 = s.r2
  modv : t.modv = s.modv

theorem SameOperands.trans {s t u : State} (h : SameOperands s t) (h' : SameOperands t u) : SameOperands s u where
  nwIndex := h'.nwIndex.trans h.nwIndex
  regs := h'.regs.trans h.regs
  modulus := h'.modulus.trans h.modulus
  nprime := h'.nprime.trans h.nprime
  r2 := h'.r2.trans h.r2
  modv := h'.modv.trans h.modv

/-- A transaction while a command is in flight changes neither the command nor what it reads, nor the cycles to come
(20_memory.md R57). -/
theorem transact_of_busy {s : State} (hbusy : s.busy = true) (tr : Transaction) :
    SameOperands s (s.transact tr) ∧ (s.transact tr).inflight = s.inflight ∧ (s.transact tr).inputs = s.inputs := by
  cases tr with
  | read a => exact ⟨⟨rfl, rfl, rfl, rfl, rfl, rfl⟩, rfl, rfl⟩
  | write a v =>
    obtain ⟨hregs, hinflight, hmodulus, hnprime, hr2, hmodv, hnw, hinputs, -⟩ := writeBusy_keeps s a v
    rw [State.transact, busWrite_of_busy hbusy]
    exact ⟨⟨hnw, hregs, hmodulus, hnprime, hr2, hmodv⟩, hinflight, hinputs⟩

/-- The bus of a cycle, with or without a transaction, while a command is in flight. -/
theorem transactIn_of_busy {s : State} (hbusy : s.busy = true) (bus : Option Transaction) :
    SameOperands s (s.transactIn bus) ∧ (s.transactIn bus).inflight = s.inflight ∧
      (s.transactIn bus).inputs = s.inputs := by
  cases bus with
  | none => exact ⟨⟨rfl, rfl, rfl, rfl, rfl, rfl⟩, rfl, rfl⟩
  | some tr => exact transact_of_busy hbusy tr

theorem busy_of_inflight {s : State} {c : Word} (h : s.inflight = some c) : s.busy = true := by
  rw [State.busy, h, Option.isSome_some]

theorem transactIn_busy {s : State} (hbusy : s.busy = true) (bus : Option Transaction) :
    (s.transactIn bus).busy = true := by
  rw [State.busy, (transactIn_of_busy hbusy bus).2.1]
  exact hbusy

/-! ### Completions -/

theorem completeWord_of_decode {c : Word} {i : Instr} (h : decode c = .ok i) (s : State) :
    s.completeWord c = exec i s := by
  rw [State.completeWord, h]

/-- A completion is an end of the decoded command, or the record of BADCMD for a word that is no command. -/
theorem completeWord_cases {s t : State} {c : Word} (h : s.completeWord c = .next t) :
    (∃ i, Ends i s t) ∨ t = (s.recordError .badcmd c).retire := by
  unfold State.completeWord at h
  split at h
  · exact .inl ⟨_, ends_of_exec h⟩
  · cases h
    exact .inr rfl

/-- An error recorded before a completion is the one recorded after it (60_exceptions.md R202). -/
theorem completeWord_keeps_errors {s t : State} {c : Word} (herr : s.err = true) (h : s.completeWord c = .next t) :
    s.SameErrors t := by
  obtain ⟨i, hends⟩ | rfl := completeWord_cases h
  · cases hends with
    | writes hi hu =>
      obtain ⟨-, -, ⟨he, hcode, hinfo⟩, -⟩ := onlyRegs_frame hu.onlyRegs
      exact ⟨he, hcode, hinfo⟩
    | raises => exact (recordError_recorded s ..).kept herr
    | loads => exact ⟨rfl, rfl, rfl⟩
    | drops =>
      obtain ⟨he, hcode, hinfo⟩ := (recordError_recorded s.dropModulus .modulus (s.commandWord i)).kept herr
      exact ⟨he, hcode, hinfo⟩
  · exact (recordError_recorded s ..).kept herr

/-! ### One cycle -/

theorem cycle_of_rst {c : Cycle} (h : c.rst = true) (s : State) :
    s.cycle c = .next (s.resetEvent.transactInReset c.bus) := by
  rw [State.cycle, if_pos h]

/-- The completion falls in the cycle, after its transaction. -/
theorem cycle_of_finish {s : State} {c : Cycle} (hrst : c.rst = false) (hbusy : s.busy = true)
    (hfinish : c.finish = true) : s.cycle c = (s.transactIn c.bus).engine := by
  rw [State.cycle, hrst, hbusy, hfinish]
  rfl

/-- No completion falls in the cycle. -/
theorem cycle_of_not_finish {c : Cycle} (hrst : c.rst = false) (hfinish : c.finish = false) (s : State) :
    s.cycle c = .next (s.transactIn c.bus) := by
  rw [State.cycle, hrst, hfinish, Bool.and_false]
  rfl

/-- In a cycle of reset only a read of the transaction is left, and it only logs. -/
theorem transactInReset_eq (s : State) (bus : Option Transaction) :
    s.transactInReset bus = { s with readLog := (s.transactInReset bus).readLog } := by
  obtain _ | ⟨_ | _⟩ := bus <;> rfl

theorem transactInReset_of_not_read {s : State} {bus : Option Transaction} (h : ∀ a, bus ≠ some (.read a)) :
    s.transactInReset bus = s := by
  obtain _ | ⟨a | _⟩ := bus
  · rfl
  · exact absurd rfl (h a)
  · rfl

theorem engine_answers (s : State) : ∃ t, s.engine = .next t := by
  cases hc : s.inflight with
  | none => exact ⟨s, engine_of_idle hc⟩
  | some c => exact (engine_completes_of_busy (busy_of_inflight hc)).imp fun _ h => h.1

theorem tableWord_toNat (c : Word) : tableWord 32 c.toNat = c := by
  rw [tableWord, Nat.mod_eq_of_lt c.isLt, BitVec.ofNat_toNat, BitVec.setWidth_eq]

/-! ### The obligations -/

/-- Settles O36. -/
theorem recordErrorKeepsTheFirst : Obligations.RecordErrorKeepsTheFirst :=
  fun _ _ _ => ⟨fun h => if_neg (by rw [h]; exact Bool.false_ne_true), fun h => if_pos h⟩

/-- Settles O46. -/
theorem busyProtectsTheOperands : Obligations.BusyProtectsTheOperands := by
  intro s tr hbusy
  obtain ⟨hsame, hinflight, -⟩ := transact_of_busy hbusy tr
  exact ⟨hinflight, hsame.regs, ⟨hsame.modulus, hsame.nprime, hsame.r2⟩, hsame.modv⟩

/-- Settles O10: with nothing presented it is the engine that answers, and otherwise each way a cycle can go does. -/
theorem everyStepAnswersNext : Obligations.EveryStepAnswersNext := by
  intro s
  cases hinputs : s.inputs with
  | nil =>
    rw [step_of_no_inputs hinputs]
    exact engine_answers s
  | cons c cs =>
    rw [step_of_cons hinputs]
    obtain ⟨-, hcycle⟩ | ⟨-, -, -, hcycle⟩ | ⟨-, -, hcycle⟩ := cycle_cases { s with inputs := cs } c
    · exact ⟨_, hcycle⟩
    · rw [hcycle]
      exact engine_answers _
    · exact ⟨_, hcycle⟩

/-- Settles O8: each way of presenting the completion reaches the engine with the word still in flight. -/
theorem stepRunsTheDecodedCommand : Obligations.StepRunsTheDecodedCommand := by
  intro s c i hdecode
  refine ⟨fun hc hinputs => ?_, fun hc cy cs hinputs hrst hfinish => ?_, fun hinputs => ?_⟩
  · rw [step_of_no_inputs hinputs, engine_of_inflight hc, completeWord_of_decode hdecode]
  · have hbusy : State.busy { s with inputs := cs } = true := busy_of_inflight hc
    obtain ⟨-, hinflight, -⟩ := transactIn_of_busy hbusy cy.bus
    rw [step_of_cons hinputs, cycle_of_finish hrst hbusy hfinish, engine_of_inflight (hinflight.trans hc),
      completeWord_of_decode hdecode]
  · rw [State.withFetchWord, tableWord_toNat, step_placeCommand hinputs, completeWord_of_decode hdecode]

/-- Settles O48: the step is the reset event and at most a logged read. -/
theorem resetCycleResetsEverything : Obligations.ResetCycleResetsEverything := by
  intro s cy cs hinputs hrst
  refine ⟨_, (step_of_cons hinputs).trans (cycle_of_rst hrst _), transactInReset_eq _ cy.bus, fun a ha => ?_,
    fun hnot => ?_⟩
  · rw [ha]
    rfl
  · rw [transactInReset_of_not_read hnot]
    rfl

/-- Settles O49: the rejected write has recorded BUSY before the command completes, so a later error of the command is
not recorded; and every completion sets DONE. -/
theorem oneCycleOrdersItsEvents : Obligations.OneCycleOrdersItsEvents := by
  intro s cy cs hinputs hbusy hfinish
  have hstep (hrst : cy.rst = false) : step s = (State.transactIn { s with inputs := cs } cy.bus).engine :=
    (step_of_cons hinputs).trans (cycle_of_finish hrst hbusy hfinish)
  have hbusy' : (State.transactIn { s with inputs := cs } cy.bus).busy = true :=
    transactIn_busy (s := { s with inputs := cs }) hbusy cy.bus
  obtain ⟨t, ht, hcompleted⟩ := engine_completes_of_busy hbusy'
  refine ⟨hstep, fun a v hrst hwrite ha herr => ?_, fun a v hrst _ _ _ => ?_, fun hrst => ?_⟩
  · obtain ⟨c, hc⟩ := Option.isSome_iff_exists.mp hbusy'
    rw [engine_of_inflight hc] at ht
    have hregion : region a = .cmd ∨ ∃ i j, region a = .x i j :=
      ha.imp region_cmd fun ⟨hlow, hhigh⟩ => region_x_of_range hlow hhigh
    have hrejected : State.transactIn { s with inputs := cs } cy.bus =
        { s with inputs := cs, err := true, ecode := .busy, errinfo := BitVec.ofNat 32 a.toNat } := by
      rw [hwrite, State.transactIn, State.transact, busWrite_rejected (s := { s with inputs := cs }) hregion hbusy,
        rejectWrite_eq, if_neg (by simp [herr])]
    have hkept := completeWord_keeps_errors (congrArg State.err hrejected) ht
    refine ⟨t, (hstep hrst).trans ((engine_of_inflight hc).trans ht), hcompleted, ?_, ?_, ?_⟩
    · rw [hkept.err, hrejected]
    · rw [hkept.ecode, hrejected]
    · rw [hkept.errinfo, hrejected]
  · exact ⟨t, (hstep hrst).trans ht, hcompleted.doneSet⟩
  · refine ⟨_, (step_of_cons hinputs).trans (cycle_of_rst hrst _), ?_⟩
    rw [transactInReset_eq]
    exact ⟨rfl, rfl, rfl, resetEvent_x { s with inputs := cs }⟩

end Sys2Proof.Proofs
end

section
/-!
PROOFS. The invariant of the block's registers: it holds at reset, and every step keeps it. Each update of the state has
its lemma; a step is a transaction, a completion in one of the ways of `Ends`, or a reset.
-/

namespace Sys2Proof.Proofs

open Sys2Proof.Machine Sys2Proof.Laws Sys2Proof.Claims

/-! ### Each update keeps the invariant -/

theorem inv_resetOf (k : Fin 256) : (State.resetOf k).Inv where
  regsFit i := by
    rw [resetOf_x]
    exact Nat.two_pow_pos _
  modulusFits := Nat.two_pow_pos _
  nprimeFits := Nat.two_pow_pos _
  r2Fits := Nat.two_pow_pos _
  constants := .inl ⟨rfl, rfl, rfl⟩
  modvLoaded := nofun
  errorClear _ := ⟨rfl, rfl⟩
  errorSet := nofun
  busyNotDone := nofun

/-- The read log and the cycles to come are no registers of the block. -/
theorem inv_log_inputs {s : State} (h : s.Inv) (log : List Word) (cs : List Cycle) :
    State.Inv { s with readLog := log, inputs := cs } := { h with }

theorem inv_resetEvent (s : State) : s.resetEvent.Inv := inv_log_inputs (inv_resetOf s.nwIndex) s.readLog s.inputs

section Updates

variable {s : State} (h : s.Inv)

include h

theorem inv_regs {u : State} (honly : OnlyRegs s u) (hfits : ∀ k, u.x k < s.radix) : u.Inv := by
  have hu : State.Inv { s with regs := u.regs } := { h with regsFit := hfits }
  rwa [← honly] at hu

theorem inv_retire : s.retire.Inv := { h with busyNotDone := nofun }

theorem inv_issue (c : Word) : (s.issue c).Inv := { h with busyNotDone := fun _ => rfl }

theorem inv_dropModulus : s.dropModulus.Inv := { h with modvLoaded := nofun }

theorem inv_writeCtrl (v : Word) : (s.writeCtrl v).Inv := { h with }

theorem inv_clearDone : s.clearDone.Inv := { h with busyNotDone := fun _ => rfl }

theorem inv_clearError : s.clearError.Inv := { h with errorClear := fun _ => ⟨rfl, rfl⟩, errorSet := nofun }

theorem inv_recordError {code : ErrCode} (w : Word) (hcode : code ≠ .none := by decide) :
    (s.recordError code w).Inv := by
  rw [State.recordError]
  split
  · exact h
  · exact { h with errorClear := nofun, errorSet := fun _ => hcode }

theorem inv_writeStatus (v : Word) : (s.writeStatus v).Inv := by
  have hdone : State.Inv (if v.getLsbD 1 then s.clearDone else s) := by
    split
    · exact inv_clearDone h
    · exact h
  rw [State.writeStatus]
  split
  · exact inv_clearError hdone
  · exact hdone

/-- An odd W-bit value is loaded with its constants (41_montgomery.md R120, 00_scope.md R17). -/
theorem inv_loadModulus {v : Nat} (hodd : v % 2 = 1) (hfits : v < s.radix) : (s.loadModulus v).Inv :=
  have hwidth : 0 < s.width := Nat.mul_pos (by decide) s.nwIndex.val.succ_pos
  { h with
    modulusFits := hfits
    nprimeFits := nPrimeOf_lt v (Nat.two_pow_pos _)
    r2Fits := (Nat.mod_lt _ (by omega)).trans hfits
    constants := .inr ⟨hodd, nPrimeOf_mul hodd s.width hwidth, rfl⟩
    modvLoaded := fun _ => hodd }

theorem inv_setX_replaceWord (i : Reg) {j : Nat} (hj : j < s.nw) (w : Word) :
    (s.setX i (replaceWord (s.x i) j w)).Inv := by
  have hwrote : Wrote [i] s (s.setX i (replaceWord (s.x i) j w)) :=
    (wrote_nothing _ s).setX (.head _) fun hinv => replaceWord_lt hj (hinv.regsFit i) w
  exact inv_regs h hwrote.onlyRegs (hwrote.fits h)

/-! ### The events of a cycle keep the invariant -/

theorem inv_busWrite (a : Addr) (v : Word) : (s.busWrite a v).Inv := by
  cases hbusy : s.busy with
  | true =>
    rw [busWrite_of_busy hbusy, State.writeBusy]
    cases region a with
    | ctrl => exact inv_writeCtrl h v
    | status => exact inv_writeStatus h v
    | cmd | x => exact inv_recordError h _
    | id | param | errinfo | modulus | nprime | r2 | reserved => exact h
  | false =>
    rw [busWrite_of_idle hbusy, State.writeIdle]
    cases region a with
    | ctrl => exact inv_writeCtrl h v
    | status => exact inv_writeStatus h v
    | cmd => exact inv_issue h v
    | x i j =>
      dsimp only
      split
      · exact inv_setX_replaceWord h i ‹_› v
      · exact h
    | id | param | errinfo | modulus | nprime | r2 | reserved => exact h

theorem inv_transactIn (bus : Option Transaction) : (s.transactIn bus).Inv := by
  obtain _ | ⟨a | ⟨a, v⟩⟩ := bus
  · exact h
  · exact inv_log_inputs h _ _
  · exact inv_busWrite h a v

/-- Every end of a command keeps the invariant. -/
theorem inv_ends {i : Instr} {t : State} (hends : Ends i s t) : t.Inv := by
  cases hends with
  | writes hi hu => exact inv_retire (inv_regs h hu.onlyRegs (hu.fits h))
  | raises hi hcode => exact inv_retire (inv_recordError h _ hcode)
  | loads hi hodd => exact inv_retire (inv_loadModulus h hodd (h.regsFit _))
  | drops hi => exact inv_retire (inv_recordError (inv_dropModulus h) _)

theorem inv_engine {t : State} (ht : s.engine = .next t) : t.Inv := by
  cases hc : s.inflight with
  | none =>
    rw [engine_of_idle hc] at ht
    cases ht
    exact h
  | some c =>
    rw [engine_of_inflight hc] at ht
    obtain ⟨i, hends⟩ | rfl := completeWord_cases ht
    · exact inv_ends h hends
    · exact inv_retire (inv_recordError h c)

theorem inv_cycle {c : Cycle} {t : State} (ht : s.cycle c = .next t) : t.Inv := by
  obtain ⟨-, hcycle⟩ | ⟨-, -, -, hcycle⟩ | ⟨-, -, hcycle⟩ := cycle_cases s c
  · rw [hcycle, transactInReset_eq] at ht
    cases ht
    exact inv_log_inputs (inv_resetEvent s) _ _
  · rw [hcycle] at ht
    exact inv_engine (inv_transactIn h c.bus) ht
  · rw [hcycle] at ht
    cases ht
    exact inv_transactIn h c.bus

end Updates

/-! ### The obligations -/

/-- Settles O51. -/
theorem invariantHoldsAtReset : Obligations.InvariantHoldsAtReset := ⟨inv_resetOf, inv_resetOf _⟩

/-- Settles O52: a step is the engine's or a cycle's, and each event of either keeps the invariant. -/
theorem everyStepKeepsTheInvariant : Obligations.EveryStepKeepsTheInvariant := by
  intro s t h ht
  cases hinputs : s.inputs with
  | nil =>
    rw [step_of_no_inputs hinputs] at ht
    exact inv_engine h ht
  | cons c cs =>
    rw [step_of_cons hinputs] at ht
    exact inv_cycle (inv_log_inputs h s.readLog cs) ht

end Sys2Proof.Proofs
end

section
/-!
PROOFS. A command's results do not depend on when it completes (20_memory.md R60): the cycles before the completion
leave what it reads, and two states that agree on what a command reads give the same results.
-/

namespace Sys2Proof.Proofs

open Sys2Proof.Machine Sys2Proof.Laws Sys2Proof.Claims

/-! ### States that agree on the operands -/

/-- `u` with what a command reads taken from `s`. -/
def withOperands (u s : State) : State :=
  { u with nwIndex := s.nwIndex, regs := s.regs, modulus := s.modulus, nprime := s.nprime, r2 := s.r2, modv := s.modv }

theorem SameOperands.eq_withOperands {s u : State} (h : SameOperands s u) : u = withOperands u s := by
  rw [withOperands, ← h.nwIndex, ← h.regs, ← h.modulus, ← h.nprime, ← h.r2, ← h.modv]

theorem sameOperands_withOperands (u s : State) : SameOperands s (withOperands u s) := ⟨rfl, rfl, rfl, rfl, rfl, rfl⟩

@[simp] theorem withOperands_x (u s : State) (k : Reg) : (withOperands u s).x k = s.x k := rfl

@[simp] theorem withOperands_radix (u s : State) : (withOperands u s).radix = s.radix := rfl

/-! ### Outcomes with the same results -/

/-- Both outcomes go on, with the same operand registers and the same modulus state. -/
def SameResults (o o' : Host.Outcome State Fault Refusal) : Prop :=
  ∃ t t', o = .next t ∧ o' = .next t' ∧ SameOperands t t'

theorem sameResults_complete {s u : State} (h : SameOperands s u) : SameResults s.complete u.complete :=
  ⟨s.retire, u.retire, rfl, rfl, ⟨h.nwIndex, h.regs, h.modulus, h.nprime, h.r2, h.modv⟩⟩

theorem sameResults_setX (u s : State) (rd : Reg) (v : Nat) :
    SameResults (s.setX rd v).complete ((withOperands u s).setX rd v).complete :=
  sameResults_complete ⟨rfl, rfl, rfl, rfl, rfl, rfl⟩

/-- Recording an error and retiring changes no operand, so the codes and the words recorded may differ. -/
theorem sameResults_record {s u : State} (h : SameOperands s u) (code code' : ErrCode) (w w' : Word) :
    SameResults (.next (s.recordError code w).retire) (.next (u.recordError code' w').retire) :=
  ⟨_, _, rfl, rfl, ⟨by simp [h.nwIndex], by simp [h.regs], by simp [h.modulus], by simp [h.nprime], by simp [h.r2],
    by simp [h.modv]⟩⟩

theorem sameResults_raise (u s : State) (code : ErrCode) (i : Instr) :
    SameResults (s.raise code i) ((withOperands u s).raise code i) :=
  sameResults_record (sameOperands_withOperands u s) ..

theorem sameResults_ite {c : Prop} [Decidable c] {o₁ o₂ o₁' o₂' : Host.Outcome State Fault Refusal}
    (h₁ : SameResults o₁ o₁') (h₂ : SameResults o₂ o₂') :
    SameResults (if c then o₁ else o₂) (if c then o₁' else o₂') := by
  split
  · exact h₁
  · exact h₂

section Checks

variable {go go' : Host.Outcome State Fault Refusal} (h : SameResults go go') (u s : State)

include h

theorem sameResults_withModulus (i : Instr) :
    SameResults (s.withModulus i go) ((withOperands u s).withModulus i go') :=
  sameResults_ite h (sameResults_raise u s ..)

theorem sameResults_withInDomain (vs : List Nat) (i : Instr) :
    SameResults (s.withInDomain vs i go) ((withOperands u s).withInDomain vs i go') :=
  sameResults_ite h (sameResults_raise u s ..)

theorem sameResults_withGroup (base : Reg) (size : Nat) (i : Instr) :
    SameResults (s.withGroup base size i go) ((withOperands u s).withGroup base size i go') :=
  sameResults_ite h (sameResults_raise u s ..)

end Checks

/-- A command with the checks of 41_montgomery.md R126. -/
theorem sameResults_of_checks {i : Instr} {u s : State} {operands : List Nat} {rd : Reg} {v : Nat}
    (h : ChecksThenWrites i s operands rd v) (h' : ChecksThenWrites i (withOperands u s) operands rd v) :
    SameResults (exec i s) (exec i (withOperands u s)) := by
  rw [h, h']
  exact sameResults_withModulus (sameResults_withInDomain (sameResults_setX u s rd v) u s operands i) u s i

/-- Every command makes the same checks and writes the same values in two states that agree on the operands. -/
theorem exec_sameResults (i : Instr) (u s : State) : SameResults (exec i s) (exec i (withOperands u s)) := by
  have hraise (code : ErrCode) := sameResults_raise u s code i
  cases i with
  | nop => exact sameResults_complete (sameOperands_withOperands u s)
  | copy rd rs1 => exact sameResults_setX u s rd _
  | cmpeq rd rs1 rs2 => exact sameResults_setX u s rd _
  | mul rd rs1 rs2 =>
    simp only [exec, execMul, withOperands_x, withOperands_radix]
    exact sameResults_ite (hraise _) (sameResults_setX u s rd _)
  | bitlen rd rs1 => exact sameResults_setX u s rd _
  | setmod rs1 =>
    simp only [exec, execSetmod, withOperands_x]
    exact sameResults_ite (sameResults_record (s := s.dropModulus) (u := (withOperands u s).dropModulus)
      ⟨rfl, rfl, rfl, rfl, rfl, rfl⟩ ..) (sameResults_complete ⟨rfl, rfl, rfl, rfl, rfl, rfl⟩)
  | montmul rd rs1 rs2 => exact sameResults_of_checks (checks_montmul ..) (checks_montmul rd rs1 rs2 _)
  | modmul rd rs1 rs2 => exact sameResults_of_checks (checks_modmul ..) (checks_modmul rd rs1 rs2 _)
  | tomont rd rs1 => exact sameResults_of_checks (checks_tomont ..) (checks_tomont rd rs1 _)
  | frommont rd rs1 => exact sameResults_of_checks (checks_frommont ..) (checks_frommont rd rs1 _)
  | reduce rd rs1 => exact sameResults_of_checks (checks_reduce ..) (checks_reduce rd rs1 _)
  | modexp rd rs1 rs2 => exact sameResults_of_checks (checks_modexp ..) (checks_modexp rd rs1 rs2 _)
  | xgcd rd rs1 rs2 =>
    refine sameResults_withGroup (sameResults_complete ?_) u s _ _ _
    exact ⟨rfl, rfl, rfl, rfl, rfl, rfl⟩
  | modinv rd rs1 rs2 =>
    simp only [exec, execModinv, withOperands_x]
    exact sameResults_ite (hraise _) (sameResults_setX u s rd _)
  | mrtest rd rs1 rs2 =>
    simp only [exec, execMrtest, withOperands_x]
    exact sameResults_ite (sameResults_setX u s rd _) (sameResults_ite (sameResults_setX u s rd _)
      (sameResults_ite (hraise _) (sameResults_setX u s rd _)))
  | rsachk rd rs1 rs2 imm => exact sameResults_setX u s rd _
  | crtsign rd rs1 rs2 =>
    simp only [exec, execCrtsign, withOperands_x, withOperands_radix]
    exact sameResults_withGroup (sameResults_ite (hraise _) (sameResults_ite (hraise _)
      (sameResults_ite (hraise _) (sameResults_setX u s rd _)))) u s _ _ _
  | verify rd rs1 rs2 =>
    simp only [exec, execVerify, withOperands_x]
    exact sameResults_withGroup (sameResults_ite (hraise _)
      (sameResults_ite (hraise _) (sameResults_setX u s rd _))) u s _ _ _
  | powchk rd rs1 imm => exact sameResults_setX u s rd _
  | blkchk rd rs1 rs2 imm => exact sameResults_setX u s rd _

/-- The word in flight completes with the same results in two states that agree on the operands. -/
theorem completeWord_sameResults {s u : State} (h : SameOperands s u) (c : Word) :
    SameResults (s.completeWord c) (u.completeWord c) := by
  cases hd : decode c with
  | ok i =>
    rw [completeWord_of_decode hd, completeWord_of_decode hd, h.eq_withOperands]
    exact exec_sameResults i u s
  | error e =>
    rw [State.completeWord, State.completeWord, hd]
    exact sameResults_record h ..

/-! ### The cycles before the completion -/

/-- Over cycles without reset and completion, the command in flight and its operands stay. -/
theorem run_quiet {c : Word} : ∀ (cs : List Cycle) (s : State), s.inputs = cs → s.inflight = some c →
    (∀ cy ∈ cs, cy.rst = false ∧ cy.finish = false) →
    ∃ u, Sys2Proof.core.run cs.length s = .next u ∧ SameOperands s u ∧ u.inflight = some c := by
  intro cs
  induction cs with
  | nil => exact fun s _ hc _ => ⟨s, rfl, ⟨rfl, rfl, rfl, rfl, rfl, rfl⟩, hc⟩
  | cons cy cs ih =>
    intro s hinputs hc hquiet
    obtain ⟨hrst, hfinish⟩ := hquiet cy List.mem_cons_self
    have hstep := (step_of_cons hinputs).trans (cycle_of_not_finish hrst hfinish _)
    obtain ⟨hsame, hinflight, hrest⟩ := transactIn_of_busy (s := { s with inputs := cs }) (busy_of_inflight hc) cy.bus
    obtain ⟨u, hu, hsame', hc'⟩ := ih _ hrest (hinflight.trans hc) fun cy' hcy' => hquiet cy' (.tail _ hcy')
    have hsame₀ : SameOperands s { s with inputs := cs } := ⟨rfl, rfl, rfl, rfl, rfl, rfl⟩
    exact ⟨u, (run_succ_of_step hstep _).trans hu, (hsame₀.trans hsame).trans hsame', hc'⟩

/-! ### The obligations -/

/-- Settles O50: the cycles leave the word in flight and its operands, and those fix its results. -/
theorem resultsDoNotDependOnTheLatency : Obligations.ResultsDoNotDependOnTheLatency := by
  intro s c cs hc hquiet
  obtain ⟨u, hu, hsame, hc'⟩ := run_quiet cs { s with inputs := cs } rfl hc hquiet
  have hsame' : SameOperands s u := ⟨hsame.nwIndex, hsame.regs, hsame.modulus, hsame.nprime, hsame.r2, hsame.modv⟩
  obtain ⟨t, t', ht, ht', hresults⟩ := completeWord_sameResults hsame' c
  exact ⟨u, hu, t, t', (engine_of_inflight hc).trans ht, (engine_of_inflight hc').trans ht', hresults.regs,
    ⟨hresults.modulus, hresults.nprime, hresults.r2⟩, hresults.modv⟩

end Sys2Proof.Proofs
end

section
/-!
PROOFS. A prime passes every admissible base of MRTEST (44_prime.md): modulo a prime the powers of the base end at 1 by
Fermat's little theorem, and 1 has no square root but 1 and −1.
-/

namespace Sys2Proof.Proofs

open Sys2Proof.Machine Sys2Proof.Laws Sys2Proof.Claims

/-- Where 1 has no square root but 1 and −1, a power that reaches 1 by k squarings starts at 1 or passes −1. -/
theorem pow_eq_one_or_eq_neg_one {R : Type*} [Ring R] [NoZeroDivisors R] {a : R} {d : Nat} : ∀ k : Nat,
    a ^ (2 ^ k * d) = 1 → a ^ d = 1 ∨ ∃ r, r < k ∧ a ^ (2 ^ r * d) = -1 := by
  intro k
  induction k with
  | zero =>
    intro h
    left
    simpa using h
  | succ k ih =>
    intro h
    have hsquare : a ^ (2 ^ k * d) * a ^ (2 ^ k * d) = 1 := by
      rw [← pow_add, ← h]
      congr 1
      ring
    obtain hone | hneg := mul_self_eq_one_iff.mp hsquare
    · exact (ih hone).imp_right fun ⟨r, hr, hpow⟩ => ⟨r, hr.trans k.lt_succ_self, hpow⟩
    · exact .inr ⟨k, k.lt_succ_self, hneg⟩

/-- A power is n − 1 modulo n when it is −1 there. -/
theorem pow_mod_eq_pred {n a e : Nat} (hn : 0 < n) (h : (a : ZMod n) ^ e = -1) : a ^ e % n = n - 1 := by
  have hpred : ((n - 1 : Nat) : ZMod n) = -1 := by
    rw [Nat.cast_sub hn, ZMod.natCast_self, Nat.cast_one, zero_sub]
  rw [← hpred, ← Nat.cast_pow, ZMod.natCast_eq_natCast_iff'] at h
  rwa [Nat.mod_eq_of_lt (Nat.sub_lt hn one_pos)] at h

/-- A power is 1 modulo n > 1 when it is 1 there. -/
theorem pow_mod_eq_one {n a e : Nat} (hn : 1 < n) (h : (a : ZMod n) ^ e = 1) : a ^ e % n = 1 := by
  rw [← Nat.cast_pow, ← Nat.cast_one, ZMod.natCast_eq_natCast_iff'] at h
  rwa [Nat.mod_eq_of_lt hn] at h

/-- An odd prime is a strong probable prime to every base that it does not divide (44_prime.md R160). -/
theorem strongProbablePrime_of_prime {n a : Nat} (hprime : n.Prime) (hne : n ≠ 2) (hlow : 1 ≤ a) (hhigh : a < n) :
    strongProbablePrime n a = true := by
  have : Fact n.Prime := ⟨hprime⟩
  have hodd : n % 2 = 1 := hprime.eq_two_or_odd.resolve_left hne
  obtain ⟨k, d, hd, hn⟩ := Nat.exists_eq_two_pow_mul_odd (Nat.sub_ne_zero_of_lt hprime.one_lt)
  have hd' : d % 2 = 1 := Nat.odd_iff.mp hd
  obtain ⟨k, rfl⟩ := Nat.exists_eq_succ_of_ne_zero (exponent_ne_zero_of_odd hodd hn hd')
  have hbase : (a : ZMod n) ≠ 0 := by
    rw [ne_eq, ZMod.natCast_eq_zero_iff]
    exact Nat.not_dvd_of_pos_of_lt hlow hhigh
  have hfermat : (a : ZMod n) ^ (2 ^ (k + 1) * d) = 1 := hn ▸ ZMod.pow_card_sub_one_eq_one hbase
  rw [strongProbablePrime_iff a hn hd']
  exact (pow_eq_one_or_eq_neg_one _ hfermat).imp (pow_mod_eq_one hprime.one_lt)
    fun ⟨r, hr, hpow⟩ => ⟨r, hr, pow_mod_eq_pred hprime.pos hpow⟩

/-- Settles O27: the round is run, and a prime passes it. -/
theorem mrtestPassesEveryPrime : Obligations.MrtestPassesEveryPrime := by
  intro rd rs1 rs2 s hprime hne hlow hhigh
  have hodd : s.x rs1 % 2 = 1 := hprime.eq_two_or_odd.resolve_left hne
  have hthree : 3 ≤ s.x rs1 := by
    have := hprime.two_le
    omega
  have hwrites := writes_mrtest hthree hodd hlow hhigh rd
  rwa [strongProbablePrime_of_prime hprime hne hlow hhigh] at hwrites

end Sys2Proof.Proofs
end

section
/-!
PROOFS. The algorithms that the spec gives beside the formulas: square-and-multiply in the Montgomery domain
(42_modexp.md R141), and the word-serial product, the Newton iteration and the doubling of 41_montgomery.md R131.
-/

namespace Sys2Proof.Proofs

open Sys2Proof.Machine Sys2Proof.Laws Sys2Proof.Claims

/-! ### Square-and-multiply -/

/-- The number whose bits from the top are those of `v` and then `es`. -/
def appendBits (v : Nat) (es : List Bool) : Nat := es.foldl (fun w e => Nat.bit e w) v

theorem appendBits_reverse_bits (e : Nat) : appendBits 0 (Nat.bits e).reverse = e := by
  rw [appendBits, List.foldl_reverse]
  induction e using Nat.binaryRec' with
  | zero => rfl
  | bit b n hn ih => rw [Nat.bits_append_bit n b hn, List.foldr_cons, ih]

/-- The ladder goes from the form of a power to the form of the power with the exponent's next bits appended. -/
theorem ladder_form {n : Nat} (hodd : n % 2 = 1) (k b : Nat) : ∀ (es : List Bool) (v : Nat),
    ladder (2 ^ k) n (b * 2 ^ k % n) es (b ^ v * 2 ^ k % n) = b ^ appendBits v es * 2 ^ k % n := by
  intro es
  induction es with
  | nil => exact fun _ => rfl
  | cons e es ih =>
    intro v
    have hsquare : montProd (2 ^ k) n (b ^ v * 2 ^ k % n) (b ^ v * 2 ^ k % n) = b ^ (2 * v) * 2 ^ k % n := by
      rw [montProd_forms hodd, ← pow_add, two_mul]
    have hmultiply : montProd (2 ^ k) n (b ^ (2 * v) * 2 ^ k % n) (b * 2 ^ k % n) = b ^ (2 * v + 1) * 2 ^ k % n := by
      rw [montProd_forms hodd, pow_succ]
    rw [ladder, hsquare, hmultiply]
    cases e with
    | false => exact ih (2 * v)
    | true => exact ih (2 * v + 1)

/-! ### The word-serial product (41_montgomery.md R131) -/

/-- What the multiple of `n` added in a pass is for: it makes the low word of the sum 0. -/
theorem two_pow_32_dvd_ciosPass_sum {n n0 : Nat} (hn0 : (n * n0 + 1) % 2 ^ 32 = 0) (u : Nat) :
    2 ^ 32 ∣ u + u % 2 ^ 32 * n0 % 2 ^ 32 * n := by
  apply Nat.dvd_of_mod_eq_zero
  have hmod : u + u % 2 ^ 32 * n0 % 2 ^ 32 * n ≡ u * (n * n0 + 1) [MOD 2 ^ 32] :=
    calc u + u % 2 ^ 32 * n0 % 2 ^ 32 * n
      _ ≡ u + u * n0 * n [MOD 2 ^ 32] :=
        (((Nat.mod_modEq _ _).trans ((Nat.mod_modEq u _).mul_right n0)).mul_right n).add_left u
      _ = u * (n * n0 + 1) := by ring
  rw [hmod, Nat.mul_mod, hn0, mul_zero, Nat.zero_mod]

/-- A pass divides its sum by 2^32 exactly, so modulo `n` it takes in the word and takes out 2^32. -/
theorem two_pow_32_mul_ciosPass_modEq {n n0 : Nat} (hn0 : (n * n0 + 1) % 2 ^ 32 = 0) (a bj t : Nat) :
    2 ^ 32 * ciosPass n n0 a bj t ≡ t + a * bj [MOD n] := by
  rw [ciosPass, Nat.mul_div_cancel' (two_pow_32_dvd_ciosPass_sum hn0 (t + a * bj))]
  exact Nat.add_mul_mod_self_right ..

/-- The passes keep their value below `n + a`. -/
theorem ciosPass_lt {n n0 a bj t : Nat} (hbj : bj < 2 ^ 32) (ht : t < n + a) : ciosPass n n0 a bj t < n + a := by
  have hfactor : (t + a * bj) % 2 ^ 32 * n0 % 2 ^ 32 < 2 ^ 32 := Nat.mod_lt _ (by decide)
  have hword : a * bj ≤ a * (2 ^ 32 - 1) := Nat.mul_le_mul_left a (by omega)
  have hmultiple : (t + a * bj) % 2 ^ 32 * n0 % 2 ^ 32 * n ≤ (2 ^ 32 - 1) * n := Nat.mul_le_mul_right n (by omega)
  rw [ciosPass, Nat.div_lt_iff_lt_mul (by decide)]
  omega

/-- The low k + 1 words of a value are its low k words and word k above them. -/
theorem mod_two_pow_succ_word (b k : Nat) :
    b % 2 ^ (32 * (k + 1)) = b % 2 ^ (32 * k) + 2 ^ (32 * k) * (wordOf b k).toNat := by
  rw [wordOf, BitVec.toNat_ofNat, Nat.mul_succ, pow_add, Nat.mod_mul]

/-- After k passes the value is `a` times the low k words of `b`, with 2^(32k) taken out. -/
theorem ciosLoop_modEq {n n0 : Nat} (hn0 : (n * n0 + 1) % 2 ^ 32 = 0) (a b k : Nat) :
    2 ^ (32 * k) * ciosLoop n n0 a b k ≡ a * (b % 2 ^ (32 * k)) [MOD n] := by
  induction k with
  | zero => simp [ciosLoop, Nat.mod_one, Nat.ModEq]
  | succ k ih =>
    calc 2 ^ (32 * (k + 1)) * ciosLoop n n0 a b (k + 1)
      _ = 2 ^ (32 * k) * (2 ^ 32 * ciosPass n n0 a (wordOf b k).toNat (ciosLoop n n0 a b k)) := by
        rw [ciosLoop, Nat.mul_succ, pow_add, mul_assoc]
      _ ≡ 2 ^ (32 * k) * (ciosLoop n n0 a b k + a * (wordOf b k).toNat) [MOD n] :=
        (two_pow_32_mul_ciosPass_modEq hn0 ..).mul_left _
      _ = 2 ^ (32 * k) * ciosLoop n n0 a b k + a * (2 ^ (32 * k) * (wordOf b k).toNat) := by ring
      _ ≡ a * (b % 2 ^ (32 * k)) + a * (2 ^ (32 * k) * (wordOf b k).toNat) [MOD n] := ih.add_right _
      _ = a * (b % 2 ^ (32 * (k + 1))) := by rw [mod_two_pow_succ_word, mul_add]

theorem ciosLoop_lt {n : Nat} (hn : 0 < n) (n0 a b k : Nat) : ciosLoop n n0 a b k < n + a := by
  induction k with
  | zero => exact Nat.add_pos_left hn a
  | succ k ih => exact ciosPass_lt (BitVec.isLt _) ih

/-- The low word of NPRIME is −1/n modulo 2^32, which is all that the passes use of it (41_montgomery.md R131). -/
theorem nPrimeOf_low_word {n nw : Nat} (hodd : n % 2 = 1) (hnw : 1 ≤ nw) :
    (n * (nPrimeOf (2 ^ (32 * nw)) n % 2 ^ 32) + 1) % 2 ^ 32 = 0 := by
  have hdvd : 2 ^ 32 ∣ n * nPrimeOf (2 ^ (32 * nw)) n + 1 :=
    (Nat.pow_dvd_pow 2 (by omega)).trans (Nat.dvd_of_mod_eq_zero (nPrimeOf_mul hodd (32 * nw) (by omega)))
  have hlow : n * (nPrimeOf (2 ^ (32 * nw)) n % 2 ^ 32) + 1 ≡ n * nPrimeOf (2 ^ (32 * nw)) n + 1 [MOD 2 ^ 32] :=
    ((Nat.mod_modEq _ _).mul_left n).add_right 1
  exact Nat.mod_eq_zero_of_dvd ((hlow.dvd_iff dvd_rfl).mpr hdvd)

/-- What 2^k times a value is modulo an odd `n` fixes the value, as the Montgomery product. -/
theorem mod_eq_montProd {n k t a b : Nat} (hodd : n % 2 = 1) (h : 2 ^ k * t ≡ a * b [MOD n]) :
    t % n = montProd (2 ^ k) n a b := by
  have hinv : 2 ^ k * rInv (2 ^ k) n ≡ 1 [MOD n] := rInv_mul hodd k
  have hmodEq : t ≡ a * b * rInv (2 ^ k) n [MOD n] :=
    calc t = t * 1 := (mul_one t).symm
      _ ≡ t * (2 ^ k * rInv (2 ^ k) n) [MOD n] := (hinv.mul_left t).symm
      _ = 2 ^ k * t * rInv (2 ^ k) n := by ring
      _ ≡ a * b * rInv (2 ^ k) n [MOD n] := h.mul_right _
  exact hmodEq

/-- One conditional subtraction reduces a value below 2n. -/
theorem ite_sub_eq_mod {n t : Nat} (h : t < 2 * n) : (if n ≤ t then t - n else t) = t % n := by
  split
  · rw [Nat.mod_eq_sub_mod ‹n ≤ t›, Nat.mod_eq_of_lt (by omega)]
  · exact (Nat.mod_eq_of_lt (by omega)).symm

theorem ciosProduct_eq_montProd {nw n a b : Nat} (hnw : 1 ≤ nw) (hodd : n % 2 = 1) (ha : a < n)
    (hb : b < 2 ^ (32 * nw)) : ciosProduct nw n a b = montProd (2 ^ (32 * nw)) n a b := by
  have hmodEq := ciosLoop_modEq (nPrimeOf_low_word hodd hnw) a b nw
  rw [Nat.mod_eq_of_lt hb] at hmodEq
  have hlt := ciosLoop_lt (n := n) (by omega) (nPrimeOf (2 ^ (32 * nw)) n % 2 ^ 32) a b nw
  rw [ciosProduct, ite_sub_eq_mod (by omega), mod_eq_montProd hodd hmodEq]

/-! ### The Newton iteration (41_montgomery.md R131) -/

theorem natCast_newtonInverse_succ (w n k : Nat) : (newtonInverse (2 ^ w) n (k + 1) : Int) =
    newtonInverse (2 ^ w) n k * (2 - n * newtonInverse (2 ^ w) n k) % (2 ^ w : Int) := by
  have hpos : (0 : Int) < 2 ^ w := by positivity
  simp only [newtonInverse, Nat.cast_pow, Nat.cast_ofNat]
  exact Int.toNat_of_nonneg (Int.emod_nonneg _ hpos.ne')

theorem newtonInverse_lt {w : Nat} (hw : 0 < w) (n k : Nat) : newtonInverse (2 ^ w) n k < 2 ^ w := by
  cases k with
  | zero => exact Nat.one_lt_two_pow hw.ne'
  | succ k =>
    have hpos : (0 : Int) < 2 ^ w := by positivity
    have hlt := Int.emod_lt_of_pos
      (newtonInverse (2 ^ w) n k * (2 - n * newtonInverse (2 ^ w) n k) : Int) hpos
    rw [← natCast_newtonInverse_succ] at hlt
    exact_mod_cast hlt

/-- Each pass squares the error, so after k passes the value is an inverse of `n` to 2^k bits, as far as there are
bits. -/
theorem two_pow_dvd_newtonInverse {n : Nat} (hodd : n % 2 = 1) (w : Nat) : ∀ k e : Nat, e ≤ w → e ≤ 2 ^ k →
    (2 ^ e : Int) ∣ n * newtonInverse (2 ^ w) n k - 1 := by
  intro k
  induction k with
  | zero =>
    intro e _ he
    have heven : (2 : Int) ∣ n * newtonInverse (2 ^ w) n 0 - 1 := by
      simp only [newtonInverse, Nat.cast_one, mul_one]
      omega
    have hone : (2 : Int) ^ e ∣ 2 ^ 1 := pow_dvd_pow 2 (by simpa using he)
    exact hone.trans (by simpa using heven)
  | succ k ih =>
    intro e hew he
    have hhalf : (2 ^ ((e + 1) / 2) : Int) ∣ n * newtonInverse (2 ^ w) n k - 1 :=
      ih _ (by omega) (by rw [pow_succ] at he; omega)
    have hsquare : (2 ^ e : Int) ∣ (n * newtonInverse (2 ^ w) n k - 1) ^ 2 := by
      have hpow := pow_dvd_pow_of_dvd hhalf 2
      rw [← pow_mul] at hpow
      exact (pow_dvd_pow 2 (by omega)).trans hpow
    have hreduce : (newtonInverse (2 ^ w) n (k + 1) : Int) ≡
        newtonInverse (2 ^ w) n k * (2 - n * newtonInverse (2 ^ w) n k) [ZMOD 2 ^ e] := by
      rw [natCast_newtonInverse_succ]
      exact (Int.mod_modEq _ _).of_dvd (pow_dvd_pow 2 hew)
    have hmodEq : (n * newtonInverse (2 ^ w) n (k + 1) - 1 : Int) ≡ 0 [ZMOD 2 ^ e] :=
      calc (n * newtonInverse (2 ^ w) n (k + 1) - 1 : Int)
        _ ≡ n * (newtonInverse (2 ^ w) n k * (2 - n * newtonInverse (2 ^ w) n k)) - 1 [ZMOD 2 ^ e] :=
          (hreduce.mul_left _).sub_right 1
        _ = -(n * newtonInverse (2 ^ w) n k - 1) ^ 2 := by ring
        _ ≡ 0 [ZMOD 2 ^ e] := Int.modEq_zero_iff_dvd.mpr (hsquare.neg_right)
    exact Int.modEq_zero_iff_dvd.mp hmodEq

/-- With 2^k at least the width, the iteration has reached the inverse. -/
theorem newtonInverse_eq_invMod {n w k : Nat} (hodd : n % 2 = 1) (hw : 0 < w) (hk : w ≤ 2 ^ k) :
    newtonInverse (2 ^ w) n k = invMod n (2 ^ w) := by
  have hcoprime : Nat.gcd n (2 ^ w) = 1 := Nat.gcd_comm n _ ▸ gcd_two_pow_of_odd hodd w
  have hnewton : n * newtonInverse (2 ^ w) n k ≡ 1 [MOD 2 ^ w] := by
    rw [← Int.natCast_modEq_iff]
    exact (Int.modEq_iff_dvd.mpr (by
      push_cast
      exact two_pow_dvd_newtonInverse hodd w k w le_rfl hk)).symm
  have hinv : n * invMod n (2 ^ w) ≡ 1 [MOD 2 ^ w] := invMod_mul (Nat.two_pow_pos w) hcoprime
  have hsame := Nat.ModEq.cancel_left_of_coprime (Nat.gcd_comm n _ ▸ hcoprime) (hnewton.trans hinv.symm)
  exact hsame.eq_of_lt_of_lt (newtonInverse_lt hw n k) (invMod_lt n (Nat.two_pow_pos w))

/-! ### The doubling (41_montgomery.md R131) -/

theorem doubledRadix_eq (radix n k : Nat) : doubledRadix radix n k = 2 ^ k * radix % n := by
  induction k with
  | zero => rw [doubledRadix, pow_zero, one_mul]
  | succ k ih => rw [doubledRadix, ih, Nat.mul_mod_mod, pow_succ', mul_assoc]

/-- A factor R gives back the product from which a Montgomery product took it out. -/
theorem montProd_mul_radix {n : Nat} (hodd : n % 2 = 1) (k a b : Nat) :
    montProd (2 ^ k) n a b * 2 ^ k % n = a * b % n := by
  have hinv : 2 ^ k * rInv (2 ^ k) n ≡ 1 [MOD n] := rInv_mul hodd k
  have hmodEq : montProd (2 ^ k) n a b * 2 ^ k ≡ a * b [MOD n] :=
    calc montProd (2 ^ k) n a b * 2 ^ k
      _ ≡ a * b * rInv (2 ^ k) n * 2 ^ k [MOD n] := (Nat.mod_modEq _ n).mul_right _
      _ = a * b * (2 ^ k * rInv (2 ^ k) n) := by ring
      _ ≡ a * b * 1 [MOD n] := hinv.mul_left _
      _ = a * b := mul_one _
  exact hmodEq

/-! ### The obligations -/

/-- Settles O57: from the form of the power 0 the ladder reaches the form of the power X[rs2], and converting it back
gives the power that MODEXP writes. -/
theorem modexpAgreesWithSquareAndMultiply : Obligations.ModexpAgreesWithSquareAndMultiply := by
  intro rd rs1 rs2 s hmodv hodd
  have hladder := ladder_form hodd (32 * s.nw) (s.x rs1 % s.modulus) (Nat.bits (s.x rs2)).reverse 0
  rw [appendBits_reverse_bits, pow_zero] at hladder
  rw [hladder, form_mul_rInv hodd]
  exact (checks_modexp_pow rd rs1 rs2 s).writes hmodv (List.forall_mem_nil _)

/-- Settles O54: each algorithm by its own equation, and the formulas by the factor R that R2 brings in and a product
takes out. -/
theorem referenceAlgorithmsGiveTheFormulas : Obligations.ReferenceAlgorithmsGiveTheFormulas := by
  intro nw n a b hnw hodd hn ha hb
  have hnewton := newtonInverse_eq_invMod hodd (w := 32 * nw) (by omega) (Nat.le_pow_clog one_lt_two _)
  refine ⟨ciosProduct_eq_montProd hnw hodd ha (hb.trans hn), by rw [hnewton, nPrimeOf], doubledRadix_eq ..,
    montProd_r2 hodd _ a, montProd_one .., ?_, fun c _ => ?_⟩
  · rw [r2Of, montProd_r2 hodd, montProd_mul_radix hodd]
  · rw [r2Of, montProd_r2 hodd, montProd_one, form_mul_rInv hodd]

end Sys2Proof.Proofs
end
